-- ==== Sys2Proof/Word.lean ====
section
/-! DEFINITION. The word types of the block: the byte of the buffers and the line, the 16-bit value of a table entry,
a length or a frame field, and the 32-bit operand register (00_scope R11, R14). -/

namespace Sys2Proof

/-- An 8-bit unsigned value (R14). -/
abbrev Byte := BitVec 8

/-- A 16-bit unsigned value: a CRC_TABLE entry, a length register, a frame field. -/
abbrev Half := BitVec 16

/-- A 32-bit unsigned value: an operand register of `ARGW` bits (R11), and the widest host register (R42). -/
abbrev Word := BitVec 32

end Sys2Proof
end

