-- ==== Sys2Proof/Config.lean ====
section
/-! DEFINITION. The implementation parameters of 00_scope section 2, the kinds of answer the environment gives
(20_memory R74), and the free values: constants without a body, which no proof can evaluate. -/

namespace Sys2Proof

/-- The environment's answer to `PortOpen(p)` and to `LineTx(p, b)` (20_memory R74 a, b). -/
inductive Answer where
  | ok
  | fail
  deriving DecidableEq, Repr, Inhabited

/-- The environment's answer to `LineEvent(p)` (20_memory R74 c). -/
inductive LineEvent where
  | byte (b : Byte)
  | timeout
  | fault
  deriving DecidableEq, Repr, Inhabited

namespace Config

/-- `RX_MAX` (R6): the bound of one response read, and the capacity of RXBUF. -/
abbrev rxMax : Nat := 1000

/-- `TX_MAX` (R9): the capacity of TXBUF. -/
abbrev txMax : Nat := 8

/-- `MIN_FRAME` (R10): the length of a minimally valid frame. -/
abbrev minFrame : Nat := 4

/-- `ARGW` (R11): the width of ARG_DEV, ARG_REG and ARG_CNT. -/
abbrev argW : Nat := 32

/-- `NPORTS` (R12). -/
abbrev nPorts : Nat := 2

/-- `BAUD_RESET` (R8). -/
abbrev baudReset : Nat := 9600

/-- `T_RX` in milliseconds (R7). No rule depends on it: its expiry is the environment's `timeout`. -/
abbrev tRxMillis : Nat := 1000

/-- `TRACE` (R13, 60_exceptions R257): absent, so there is no trace output in the machine. -/
abbrev tracePresent : Bool := false

/-- Free value (log entry 3): the answer to `PortOpen(p)` at draw `n`, where State lists no further answer. -/
opaque openAnswer (n : Nat) (p : Byte) : Answer

/-- Free value (log entry 3): the answer to `LineTx(p, b)` at draw `n`. -/
opaque txAnswer (n : Nat) (p b : Byte) : Answer

/-- Free value (log entry 3): the answer to `LineEvent(p)` at draw `n`. -/
opaque lineEvent (n : Nat) (p : Byte) : LineEvent

/-- Free value (log entry 5): what TXBYTE reads at an index at or beyond TXLEN, between two commands (U3). -/
opaque unspecifiedTxByte (n : Nat) (i : Half) : Byte

/-- Free value (log entry 5): what RXBYTE reads at an index at or beyond RXLEN, between two commands (U3). -/
opaque unspecifiedRxByte (n : Nat) (i : Half) : Byte

/-- Free value (log entry 19): the boolean pump outcome handed upward, from the two echo results (48_host_reference R221,
R223; how it is formed is not given, 91_not_in_source N8). -/
opaque pumpOutcome (onOk offOk : Bool) : Bool

end Config

end Sys2Proof
end

