-- ==== Sys2Proof/Machine/Bits.lean ====
section
/-! DEFINITION. The bit fields of 00_scope R14: `hi8`, `lo8`, `be16`, and a byte taken out of an operand register. -/

namespace Sys2Proof.Machine

/-- `hi8(v) = v[15:8]` (R14). -/
def hi8 (v : Half) : Byte := v.extractLsb' 8 8

/-- `lo8(v) = v[7:0]` (R14). -/
def lo8 (v : Half) : Byte := v.extractLsb' 0 8

/-- `be16(v) = [hi8(v), lo8(v)]` (R14, 30_encoding R98): big-endian, as every field but the checksum (20_memory R66). -/
def be16 (v : Half) : List Byte := [hi8 v, lo8 v]

/-- The 16-bit field two consecutive frame bytes hold: `be16` read back (20_memory R66). -/
def ofBe16 (h l : Byte) : Half := h ++ l

/-- `v[lo+7:lo]` of a 32-bit operand register, the slices of 41_codec R145 and R146. -/
def byteOf (v : Word) (lo : Nat) : Byte := v.extractLsb' lo 8

end Sys2Proof.Machine
end

