-- ==== Sys2Proof/Machine/Operands.lean ====
section
/-! DEFINITION. What the commands compute from their operands: the argument checks (41_codec R144), the bodies of the
two request frames (30_encoding R95, R96), the validity predicate (R147), the payload length (R149). -/

namespace Sys2Proof.Machine

/-- `args_ok_rd` (R144). -/
def argsOkRd (dev reg cnt : Word) : Bool := dev.toNat ≤ 255 && reg.toNat ≤ 65535 && cnt.toNat ≤ 65535

/-- `args_ok_wc` (R144): ARG_CNT is not looked at. -/
def argsOkWc (dev reg : Word) : Bool := dev.toNat ≤ 255 && reg.toNat ≤ 65535

/-- Function code of a read-registers request (30_encoding R102). -/
def fcRead : Byte := 0x03

/-- Function code of a write-coil request (30_encoding R102). -/
def fcWrite : Byte := 0x05

/-- The coil sentinel: `0xFF00` on, `0x0000` off, big-endian (30_encoding R97). -/
def coilValue (v : BitVec 1) : Half := if v = 1 then 0xFF00 else 0x0000

/-- Bytes 0 to 5 of a request frame: device, function, and two big-endian fields (30_encoding R95, R96, R98). -/
def requestBody (dev fc : Byte) (reg field : Half) : List Byte := [dev, fc] ++ be16 reg ++ be16 field

/-- Bytes 0 to 5 of the frame BLD.RD builds, the slices of R145. -/
def readBody (dev reg cnt : Word) : List Byte :=
  [byteOf dev 0, fcRead, byteOf reg 8, byteOf reg 0, byteOf cnt 8, byteOf cnt 0]

/-- Bytes 0 to 5 of the frame BLD.WC builds, the slices of R146. -/
def coilBody (dev reg : Word) (v : BitVec 1) : List Byte :=
  [byteOf dev 0, fcWrite, byteOf reg 8, byteOf reg 0] ++ be16 (coilValue v)

/-- `valid(r)` (R147). -/
def validFrame (r : List Byte) : Bool :=
  2 ≤ r.length && r.drop (r.length - 2) == crcTrailer (r.take (r.length - 2))

/-- `paylen(n)` (R149): `n - 5` if `n >= 5`, else 0. -/
def payloadLength (n : Nat) : Nat := if 5 ≤ n then n - 5 else 0

end Sys2Proof.Machine
end

