-- ==== Sys2Proof/Syntax.lean ====
section
/-! DEFINITION. The instructions: one constructor for each row of spec/opcode_table.json. The thirteen command words
carry no operand field (30_encoding R91); the three request frames carry the fields of their pattern (R95, R96). -/

namespace Sys2Proof

inductive Instr where
  /-- CRC.INIT, word 0x01 (40_crc R121). -/
  | crcInit
  /-- CRC.UPD, word 0x02 (40_crc R122). -/
  | crcUpd
  /-- TX.CLR, word 0x10 (41_codec R140). -/
  | txClr
  /-- TX.PUT, word 0x11 (41_codec R141). -/
  | txPut
  /-- RX.CLR, word 0x12 (41_codec R142). -/
  | rxClr
  /-- RX.PUT, word 0x13 (41_codec R143). -/
  | rxPut
  /-- BLD.RD, word 0x20 (41_codec R145). -/
  | bldRd
  /-- BLD.WC, word 0x21 (41_codec R146). -/
  | bldWc
  /-- VALID, word 0x22 (41_codec R148). -/
  | valid
  /-- ECHO, word 0x23 (41_codec R150). -/
  | echo
  /-- XCHG, word 0x30 (42_transactor R180). -/
  | xchg
  /-- RDREGS, word 0x33 (42_transactor R181). -/
  | rdregs
  /-- WRCOIL, word 0x35 (42_transactor R182). -/
  | wrcoil
  /-- The wire frame REQ_RD (30_encoding R95): device, register, count, and the two checksum bytes. -/
  | reqRd (dev : Byte) (reg count : Half) (lo hi : Byte)
  /-- The wire frame REQ_WC with the on sentinel FF 00 (30_encoding R96, R97). -/
  | reqWcOn (dev : Byte) (reg : Half) (lo hi : Byte)
  /-- The wire frame REQ_WC with the off sentinel 00 00 (30_encoding R96, R97). -/
  | reqWcOff (dev : Byte) (reg : Half) (lo hi : Byte)
  deriving DecidableEq, Repr

end Sys2Proof
end

