-- ==== Sys2Proof/WellFormed.lean ====
section
/-! DEFINITION. Which instructions are well formed. A command word has no field, so each is. A request frame carries its
own checksum: its last two bytes are `crc16` of its first six, low byte first (30_encoding R94, R95, R96, R99). -/

namespace Sys2Proof

open Machine in
/-- The checksum bytes of a request frame agree with its other six bytes. -/
def Instr.wellFormed : Instr → Bool
  | .crcInit | .crcUpd | .txClr | .txPut | .rxClr | .rxPut | .bldRd | .bldWc | .valid | .echo => true
  | .xchg | .rdregs | .wrcoil => true
  | .reqRd dev reg count lo hi => crc16 (requestBody dev fcRead reg count) == (lo, hi)
  | .reqWcOn dev reg lo hi => crc16 (requestBody dev fcWrite reg (coilValue 1)) == (lo, hi)
  | .reqWcOff dev reg lo hi => crc16 (requestBody dev fcWrite reg (coilValue 0)) == (lo, hi)

end Sys2Proof
end

