-- ==== Sys2Proof/Decode.lean ====
section
/-! DEFINITION. The decoder, total on any bytes and rejecting by name, and the encoder. The two encoding spaces of
30_encoding R90 differ in length: a command word is one byte (R91), a request frame eight (R95, R96, R103). -/

namespace Sys2Proof

/-- Why bytes stand for no instruction. -/
inductive DecodeError where
  /-- One of the 243 reserved command words (30_encoding R93). -/
  | reservedWord (op : Byte)
  /-- Byte 1 of the frame is neither 0x03 nor 0x05 (30_encoding R102). -/
  | unknownFunction (fc : Byte)
  /-- Bytes 4 and 5 of a write-coil frame are neither FF 00 nor 00 00 (30_encoding R97). -/
  | unknownCoilValue (v : Half)
  /-- Neither one byte nor eight. -/
  | badLength (n : Nat)
  deriving DecidableEq, Repr

namespace Decode

open Machine

/-- The opcode map of 30_encoding R92, one row for each assigned word. -/
def commandRows : List (Byte × Instr) :=
  [(0x01, .crcInit), (0x02, .crcUpd),
   (0x10, .txClr), (0x11, .txPut), (0x12, .rxClr), (0x13, .rxPut),
   (0x20, .bldRd), (0x21, .bldWc), (0x22, .valid), (0x23, .echo),
   (0x30, .xchg), (0x33, .rdregs), (0x35, .wrcoil)]

/-- The first row whose word is the one given, if there is one: all eight bits are matched (R92). -/
def lookup (op : Byte) : List (Byte × Instr) → Option Instr
  | [] => none
  | (w, i) :: rows => if w = op then some i else lookup op rows

/-- A command word (R91 to R93). -/
def command (op : Byte) : Except DecodeError Instr :=
  match lookup op commandRows with
  | some i => .ok i
  | none => .error (.reservedWord op)

/-- A request frame by its eight bytes: the patterns of R95 and R96, bit for bit. -/
def frame (dev fc rh rl vh vl lo hi : Byte) : Except DecodeError Instr :=
  if fc = fcRead then .ok (.reqRd dev (ofBe16 rh rl) (ofBe16 vh vl) lo hi)
  else if fc = fcWrite then
    if ofBe16 vh vl = coilValue 1 then .ok (.reqWcOn dev (ofBe16 rh rl) lo hi)
    else if ofBe16 vh vl = coilValue 0 then .ok (.reqWcOff dev (ofBe16 rh rl) lo hi)
    else .error (.unknownCoilValue (ofBe16 vh vl))
  else .error (.unknownFunction fc)

end Decode

/-- The decoder: one byte is a command word, eight bytes a request frame. -/
def decode : List Byte → Except DecodeError Instr
  | [op] => Decode.command op
  | [b0, b1, b2, b3, b4, b5, b6, b7] => Decode.frame b0 b1 b2 b3 b4 b5 b6 b7
  | bytes => .error (.badLength bytes.length)

open Machine in
/-- The encoder, written from R92 (command words) and R95 to R99 (frames). -/
def encode : Instr → List Byte
  | .crcInit => [0x01]
  | .crcUpd => [0x02]
  | .txClr => [0x10]
  | .txPut => [0x11]
  | .rxClr => [0x12]
  | .rxPut => [0x13]
  | .bldRd => [0x20]
  | .bldWc => [0x21]
  | .valid => [0x22]
  | .echo => [0x23]
  | .xchg => [0x30]
  | .rdregs => [0x33]
  | .wrcoil => [0x35]
  | .reqRd dev reg count lo hi => requestBody dev fcRead reg count ++ [lo, hi]
  | .reqWcOn dev reg lo hi => requestBody dev fcWrite reg (coilValue 1) ++ [lo, hi]
  | .reqWcOff dev reg lo hi => requestBody dev fcWrite reg (coilValue 0) ++ [lo, hi]

/-- The `n` bytes of a number, the most significant first: a frame row of the opcode table numbers its 64 bits with the
first byte on the wire leftmost (bits 63 to 56), log entry 11. -/
def bytesBE : Nat → Nat → List Byte
  | 0, _ => []
  | n + 1, w => BitVec.ofNat 8 (w / 256 ^ n) :: bytesBE n w

/-- The bytes of a row of the opcode table whose bits are `w`. -/
def tableBytes (nbits w : Nat) : List Byte := bytesBE (nbits / 8) w

/-- What the decoder reads from an instruction whose bits are `w`, numbered as the opcode table numbers them. -/
def decodeTableWord (nbits w : Nat) : Option Instr :=
  match decode (tableBytes nbits w) with
  | .ok i => some i
  | .error _ => none

end Sys2Proof
end

