-- ==== Sys2Proof/Machine/Flags.lean ====
section
/-! DEFINITION. The error kinds and the two registers that report them: RESULT (10_state R34) and CAUSE (R35), as
60_exceptions R240 to R248 number and write them. -/

namespace Sys2Proof.Machine

/-- The six error kinds (60_exceptions R240): FC's five and IllegalCommand. -/
inductive ErrorKind where
  | illegalCommand
  | invalidArgument
  | transportFault
  | timeoutEmpty
  | checksumMismatch
  | echoMismatch
  deriving DecidableEq, Repr

/-- A kind's code, which is also its bit of RESULT (60_exceptions R241 to R246). -/
def kindCode : ErrorKind → Nat
  | .illegalCommand => 1
  | .invalidArgument => 2
  | .transportFault => 3
  | .timeoutEmpty => 4
  | .checksumMismatch => 5
  | .echoMismatch => 6

/-- RESULT bit of a kind (10_state R34). -/
def kindBit (k : ErrorKind) : Byte := 1#8 <<< kindCode k

/-- RESULT.OK (10_state R34, bit 0). -/
def okBit : Byte := 0x01

/-- RESULT at the end of a command that raised `ks` (60_exceptions R248): each raised kind's bit, or OK alone. -/
def resultOf (ks : List ErrorKind) : Byte :=
  if ks = [] then okBit else ks.foldr (fun k r => kindBit k ||| r) 0

/-- CAUSE as RESULT determines it (10_state R35): the number of the lowest-numbered error bit set, or 0. -/
def causeOf (r : Byte) : BitVec 3 :=
  if r.getLsbD 1 then 1
  else if r.getLsbD 2 then 2
  else if r.getLsbD 3 then 3
  else if r.getLsbD 4 then 4
  else if r.getLsbD 5 then 5
  else if r.getLsbD 6 then 6
  else 0

/-- RESULT[6:1], the error bits (10_state R34, R43). -/
def errorBits (r : Byte) : BitVec 6 := r.extractLsb' 1 6

/-- A value RESULT may hold after a command (10_state R34): bit 7 reads 0, OK exactly when no error bit is set. -/
def resultLegal (r : Byte) : Bool := !r.getLsbD 7 && (r.getLsbD 0 == (errorBits r == 0))

end Sys2Proof.Machine
end

