-- ==== Sys2Proof/Machine/Memory.lean ====
section
/-! DEFINITION. A byte buffer as plain data: the cells that differ from what an unlisted cell reads as, by rising index
(20_memory R60 spaces 3 and 4, R63). TXBUF and RXBUF are two of them. -/

namespace Sys2Proof.Machine

/-- A buffer's cells: (index, byte), one canonical form (`Memory.wf`). -/
abbrev Memory := List Host.Cell

/-- What an unlisted cell reads as (log entry 6): no rule gives a buffer's bytes after reset (10_state R41), and no
command or window reads one before it is written. -/
def Memory.blank : Byte := 0x00

/-- The canonical form: indices strictly rising, no cell that reads as an unlisted one. -/
abbrev Memory.wf (m : Memory) : Prop := m.Pairwise (fun c d => c.1 < d.1) ∧ ∀ c ∈ m, c.2 ≠ Memory.blank

/-- `MemRead(space, a, 1)` (20_memory R76). -/
def Memory.read : Memory → Nat → Byte
  | [], _ => Memory.blank
  | (k, v) :: m, a => if k = a then v else Memory.read m a

/-- A cell in front of later ones, left out when it reads as an unlisted one. -/
def Memory.put (a : Nat) (b : Byte) (m : Memory) : Memory := if b = Memory.blank then m else (a, b) :: m

/-- `MemWrite(space, a, 1, b)` (20_memory R76), keeping the canonical form. -/
def Memory.write : Memory → Nat → Byte → Memory
  | [], a, b => Memory.put a b []
  | (k, v) :: m, a, b =>
    if a < k then Memory.put a b ((k, v) :: m)
    else if a = k then Memory.put a b m
    else (k, v) :: Memory.write m a b

/-- A byte sequence written at consecutive indices from `a`. -/
def Memory.writeAll : Memory → Nat → List Byte → Memory
  | m, _, [] => m
  | m, a, b :: bs => Memory.writeAll (Memory.write m a b) (a + 1) bs

/-- `BUF[0:n]` (00_scope R14). -/
def Memory.slice (m : Memory) (n : Nat) : List Byte := (List.range n).map (Memory.read m)

end Sys2Proof.Machine
end

