-- ==== Sys2Proof/Machine/State.lean ====
section
/-! DEFINITION. The state of the block as plain data (10_state R20), the world around it that a step reads (the host's
moves, the environment's answers, the reset input), the reasons a step can stop, and the state after reset (R41). -/

namespace Sys2Proof.Machine

/-- PHASE, `STATUS[3:2]` (10_state R33, R38): the value 3 is never taken. -/
inductive Phase where
  | idle
  | tx
  | rx
  deriving DecidableEq, Repr

/-- The three commands that contain an exchange (42_transactor R171). -/
inductive ExchangeCmd where
  | xchg
  | rdregs
  | wrcoil
  deriving DecidableEq, Repr

/-- One move of the host (20_memory R61, 30_encoding R104, R105). -/
inductive HostMove where
  /-- `HostRead(n)`. -/
  | read (n : Nat)
  /-- `HostWrite(n, v)`; a write to register 0 runs a command. -/
  | write (n v : Nat)
  /-- A whole request frame for the block to build: the pseudo-statement `BLD.RD dev, reg, cnt` or `BLD.WC dev, reg, v`
  of R105, given by the frame's bytes (log entry 10). -/
  | request (bytes : List Byte)
  deriving DecidableEq, Repr

/-- One entry of the event history (20_memory R75). -/
inductive LineRecord where
  | opened (p : Byte)
  | sent (p b : Byte)
  | received (p b : Byte)
  | closed (p : Byte)
  deriving DecidableEq, Repr

structure State where
  /-- CRC_LO (R21). -/
  crcLo : Byte
  /-- CRC_HI (R21). -/
  crcHi : Byte
  /-- ARG_DEV (R23). -/
  argDev : Word
  /-- ARG_REG (R24). -/
  argReg : Word
  /-- ARG_CNT (R25). -/
  argCnt : Word
  /-- ARG_COIL (R26). -/
  argCoil : BitVec 1
  /-- DATA (R27). -/
  data : Byte
  /-- TXBUF (R28). -/
  txbuf : Memory
  /-- TXLEN (R28). -/
  txlen : Half
  /-- RXBUF (R29). -/
  rxbuf : Memory
  /-- RXLEN (R29). -/
  rxlen : Half
  /-- PORT (R30). -/
  port : Byte
  /-- BAUD (R31). -/
  baud : Word
  /-- RESULT (R34). -/
  result : Byte
  /-- CAUSE (R35). -/
  cause : BitVec 3
  /-- PAYLEN (R36). -/
  paylen : Half
  /-- IDX (R37). -/
  idx : Half
  /-- STATUS.BUSY (R33). -/
  busy : Bool
  /-- STATUS.CONN (R33). -/
  conn : Bool
  /-- STATUS.PHASE (R33, R38). -/
  phase : Phase
  /-- TXIDX (R38). -/
  txidx : Half
  /-- The model's own (log entry 1): the exchange command between its first and its last sequencer step. -/
  running : Option ExchangeCmd
  /-- The model's own (log entry 2): the host's moves still to come, oldest first. -/
  hostQueue : List HostMove
  /-- The model's own (log entry 2): the host's reads so far, each with its answer, oldest first. -/
  reads : List (Nat × Word)
  /-- The model's own (log entry 3): the environment's coming answers to `PortOpen`. -/
  opens : List Answer
  /-- The model's own (log entry 3): the environment's coming answers to `LineTx`. -/
  sends : List Answer
  /-- The model's own (log entry 3): the environment's coming answers to `LineEvent`. -/
  events : List LineEvent
  /-- The model's own (log entry 4): the counter free values are applied to. -/
  tick : Nat
  /-- The model's own (log entry 9): the reset input at the coming sampling points; used up, it is not asserted. -/
  resetPin : List Bool
  /-- The event history (20_memory R75, log entry 15), oldest first. -/
  history : List LineRecord
  deriving DecidableEq, Repr

/-- Reasons the machine stops. The spec gives the block no trap and no stuck state (60_exceptions R240, R250). -/
inductive Fault where
  /-- Raised by `step` alone, in a state with BUSY = 1 and no exchange command recorded as running. Every other command is
  one atomic step (20_memory R69), so no run reaches such a state. Safe (log entry 14). -/
  | noRunningCommand
  deriving DecidableEq, Repr

/-- Reasons the machine gives a move no meaning. -/
inductive Refusal where
  /-- Raised by `exec` for an instruction that has no meaning yet; no arm raises it now. Safe. -/
  | notModelled (mnemonic : String)
  /-- Raised by a host access to a register number above 19 (93_implementation_defined U4: refuse). Safe (log entry 7). -/
  | noSuchRegister (n : Nat)
  /-- Raised by a host write of a value wider than the register: the interface carries typed values (10_state R42). Safe
  (log entry 8). -/
  | valueTooWide (n v : Nat)
  /-- Raised by a host move `request` whose bytes are no request frame of 30_encoding R95 or R96. Safe (log entry 10). -/
  | notARequestFrame
  deriving DecidableEq, Repr

/-- The state after reset (10_state R41, 70_reset_and_hazards R280). -/
def State.reset : State where
  crcLo := 0xFF
  crcHi := 0xFF
  argDev := 0
  argReg := 0
  argCnt := 0
  argCoil := 0
  data := 0
  txbuf := []
  txlen := 0
  rxbuf := []
  rxlen := 0
  port := 0
  baud := BitVec.ofNat 32 Config.baudReset
  result := 0
  cause := 0
  paylen := 0
  idx := 0
  busy := false
  conn := false
  phase := .idle
  txidx := 0
  running := none
  hostQueue := []
  reads := []
  opens := []
  sends := []
  events := []
  tick := 0
  resetPin := []
  history := []

end Sys2Proof.Machine
end

