-- ==== Sys2Proof/Machine/Ops.lean ====
section
/-! DEFINITION. The named operations the commands share: the command cycle with its one way of recording error kinds
(30_encoding R107, 60_exceptions R248), the two buffers, the checksum engine, the environment's questions (20_memory
R74), the host registers by number (10_state R42), and reset (70_reset_and_hazards R280). -/

namespace Sys2Proof.Machine

/-! ### The command cycle -/

/-- Step 1 of the command cycle (R107): `BUSY <- 1`, `RESULT <- 0`, `CAUSE <- 0`. The counter of free values moves on. -/
def beginCommand (s : State) : State :=
  { s with busy := true, result := 0, cause := 0, tick := s.tick + 1 }

/-- TAKING AN EXCEPTION, the one way there is (60_exceptions R240, R248, R249), with steps 3 and 4 of the command cycle
(R107): RESULT and CAUSE are written from the kinds raised, and `BUSY <- 0`. No control is transferred, nothing is saved,
and there is no return (R250). -/
def finishCommand (ks : List ErrorKind) (s : State) : State :=
  { s with busy := false, running := none, result := resultOf ks, cause := causeOf (resultOf ks) }

/-- A command that is one atomic step (20_memory R69): its body answers the kinds it raised. -/
def runAtomic (body : State → List ErrorKind × State) (s : State) : State :=
  finishCommand (body (beginCommand s)).1 (body (beginCommand s)).2

/-- A reserved command word (30_encoding R93, 60_exceptions R241): IllegalCommand, nothing else changes. -/
def illegalCommand (s : State) : State := runAtomic (fun t => ([.illegalCommand], t)) s

/-! ### The buffers -/

/-- `TXBUF[0:TXLEN]`, the request (R28). -/
def txBytes (s : State) : List Byte := s.txbuf.slice s.txlen.toNat

/-- `RXBUF[0:RXLEN]`, the response (R29). -/
def rxBytes (s : State) : List Byte := s.rxbuf.slice s.rxlen.toNat

/-- `TXBUF[TXLEN] <- b ; TXLEN <- TXLEN + 1` (41_codec R141). -/
def appendTx (b : Byte) (s : State) : State :=
  { s with txbuf := s.txbuf.write s.txlen.toNat b, txlen := BitVec.ofNat 16 (s.txlen.toNat + 1) }

/-- `RXBUF[RXLEN] <- b ; RXLEN <- RXLEN + 1` (41_codec R143, 42_transactor R176). -/
def appendRx (b : Byte) (s : State) : State :=
  { s with rxbuf := s.rxbuf.write s.rxlen.toNat b, rxlen := BitVec.ofNat 16 (s.rxlen.toNat + 1) }

/-! ### The checksum engine -/

/-- The accumulators as a pair (R21). -/
def crcAcc (s : State) : Byte × Byte := (s.crcLo, s.crcHi)

/-- Both accumulators at once (R122). -/
def setCrc (acc : Byte × Byte) (s : State) : State := { s with crcLo := acc.1, crcHi := acc.2 }

/-- The six bytes of a request, their checksum appended low byte first, in TXBUF; the accumulators keep the checksum
(41_codec R145, R146, R152). -/
def storeRequest (body : List Byte) (s : State) : State :=
  { setCrc (crc16 body) s with txbuf := s.txbuf.writeAll 0 (body ++ crcTrailer body), txlen := 8 }

/-- The checksum test of a response (41_codec R148, 42_transactor R181, R182): whether the trailer matches, and the
accumulators, which hold the body's checksum when there are two bytes or more and are unchanged otherwise (R152). -/
def checkTrailer (s : State) : Bool × State :=
  if s.rxlen.toNat < 2 then (false, s)
  else (validFrame (rxBytes s), setCrc (crc16 ((rxBytes s).take (s.rxlen.toNat - 2))) s)

/-- The echo test (41_codec R150): equal length and equal bytes. -/
def sameBytes (s : State) : Bool := s.rxlen == s.txlen && rxBytes s == txBytes s

/-! ### The environment's questions -/

/-- `PortOpen(PORT)` (R74 a): always `fail` when `PORT >= NPORTS`, otherwise the environment decides. -/
def askOpen (s : State) : Answer × State :=
  if Config.nPorts ≤ s.port.toNat then (.fail, s)
  else match s.opens with
    | a :: rest => (a, { s with opens := rest })
    | [] => (Config.openAnswer s.tick s.port, { s with tick := s.tick + 1 })

/-- `LineTx(PORT, b)` (R74 b). -/
def askSend (b : Byte) (s : State) : Answer × State :=
  match s.sends with
  | a :: rest => (a, { s with sends := rest })
  | [] => (Config.txAnswer s.tick s.port b, { s with tick := s.tick + 1 })

/-- `LineEvent(PORT)` (R74 c). -/
def askEvent (s : State) : LineEvent × State :=
  match s.events with
  | e :: rest => (e, { s with events := rest })
  | [] => (Config.lineEvent s.tick s.port, { s with tick := s.tick + 1 })

/-! ### The host registers -/

/-- PAYOFF, a constant (10_state R36). -/
def payOff : Half := 3

/-- A phase as `STATUS[3:2]` (R33). -/
def phaseCode : Phase → BitVec 2
  | .idle => 0
  | .tx => 1
  | .rx => 2

/-- STATUS (R33): PHASE in bits 3 to 2, CONN in bit 1, BUSY in bit 0, bits 7 to 4 read 0. -/
def statusByte (s : State) : Byte :=
  0#4 ++ phaseCode s.phase ++ BitVec.ofBool s.conn ++ BitVec.ofBool s.busy

/-- TXBYTE (R37): `TXBUF[IDX]` when `IDX < TXLEN`, otherwise unspecified (U3, log entry 5). -/
def txWindow (s : State) : Byte :=
  if s.idx.toNat < s.txlen.toNat then s.txbuf.read s.idx.toNat else Config.unspecifiedTxByte s.tick s.idx

/-- RXBYTE (R37): `RXBUF[IDX]` when `IDX < RXLEN`, otherwise unspecified (U3, log entry 5). -/
def rxWindow (s : State) : Byte :=
  if s.idx.toNat < s.rxlen.toNat then s.rxbuf.read s.idx.toNat else Config.unspecifiedRxByte s.tick s.idx

/-- The widths of the registers (R42); no register has a number above 19. -/
def regWidth : Nat → Option Nat
  | 0 => some 8 | 1 => some 8 | 2 => some 8 | 3 => some 3
  | 4 => some 32 | 5 => some 32 | 6 => some 32 | 7 => some 1
  | 8 => some 8 | 9 => some 8 | 10 => some 32 | 11 => some 8
  | 12 => some 8 | 13 => some 16 | 14 => some 16 | 15 => some 16
  | 16 => some 16 | 17 => some 16 | 18 => some 8 | 19 => some 8
  | _ => none

/-- `HostRead(n)` (20_memory R61, 10_state R42), zero-extended to 32 bits; CMD reads 0. -/
def readRegister (n : Nat) (s : State) : Option Word :=
  match n with
  | 0 => some 0
  | 1 => some ((statusByte s).setWidth 32)
  | 2 => some (s.result.setWidth 32)
  | 3 => some (s.cause.setWidth 32)
  | 4 => some s.argDev
  | 5 => some s.argReg
  | 6 => some s.argCnt
  | 7 => some (s.argCoil.setWidth 32)
  | 8 => some (s.data.setWidth 32)
  | 9 => some (s.port.setWidth 32)
  | 10 => some s.baud
  | 11 => some (s.crcLo.setWidth 32)
  | 12 => some (s.crcHi.setWidth 32)
  | 13 => some (s.txlen.setWidth 32)
  | 14 => some (s.rxlen.setWidth 32)
  | 15 => some (payOff.setWidth 32)
  | 16 => some (s.paylen.setWidth 32)
  | 17 => some (s.idx.setWidth 32)
  | 18 => some ((txWindow s).setWidth 32)
  | 19 => some ((rxWindow s).setWidth 32)
  | _ => none

/-- `HostWrite(n, v)` for every register but CMD (20_memory R61, 10_state R42): a read-only register keeps its value. -/
def writeRegister (n v : Nat) (s : State) : State :=
  match n with
  | 4 => { s with argDev := BitVec.ofNat 32 v }
  | 5 => { s with argReg := BitVec.ofNat 32 v }
  | 6 => { s with argCnt := BitVec.ofNat 32 v }
  | 7 => { s with argCoil := BitVec.ofNat 1 v }
  | 8 => { s with data := BitVec.ofNat 8 v }
  | 9 => { s with port := BitVec.ofNat 8 v }
  | 10 => { s with baud := BitVec.ofNat 32 v }
  | 17 => { s with idx := BitVec.ofNat 16 v }
  | _ => s

/-! ### Reset -/

/-- Reset asserted (70_reset_and_hazards R280, R281): every piece of the block's state at its reset value, an open port
released. The world outside goes on: the host's later moves, the answers it was given, the environment's answers, the
history (log entry 9). -/
def applyReset (s : State) : State :=
  { State.reset with
    hostQueue := s.hostQueue
    reads := s.reads
    opens := s.opens
    sends := s.sends
    events := s.events
    resetPin := s.resetPin
    tick := s.tick + 1
    history := if s.conn then s.history ++ [.closed s.port] else s.history }

/-- The reset input at this sampling point: used up, the list stands for an input that is not asserted. -/
def resetLevel (s : State) : Bool := s.resetPin.headD false

/-- The state with this sampling point passed. -/
def nextSample (s : State) : State := { s with resetPin := s.resetPin.tail }

end Sys2Proof.Machine
end

