-- ==== Sys2Proof/Machine/Checksum.lean ====
section
/-! DEFINITION. The checksum engine's commands: CRC.INIT and CRC.UPD (40_crc R121, R122). -/

namespace Sys2Proof.Machine

/-- CRC.INIT (R121): both accumulators to 0xFF. -/
def execCrcInit (s : State) : Host.Outcome State Fault Refusal :=
  .next (runAtomic (fun t => ([], setCrc crcSeed t)) s)

/-- CRC.UPD (R122): one checksum step with the byte DATA. -/
def execCrcUpd (s : State) : Host.Outcome State Fault Refusal :=
  .next (runAtomic (fun t => ([], setCrc (crcStep (crcAcc t) t.data) t)) s)

end Sys2Proof.Machine
end

