-- ==== Sys2Proof/Machine/Codec.lean ====
section
/-! DEFINITION. The frame codec's commands (41_codec): loading the buffers by hand (R140 to R143), the request builders
(R145, R146), validation (R148), the echo comparison (R150); and the request frames as rows of the opcode table. -/

namespace Sys2Proof.Machine

/-- Body of TX.PUT (R141). The guard is `TXLEN = TX_MAX`, written so that no larger length writes either (log entry 13). -/
def txPutBody (s : State) : List ErrorKind × State :=
  if Config.txMax ≤ s.txlen.toNat then ([.invalidArgument], s) else ([], appendTx s.data s)

/-- Body of RX.PUT (R143), guarded like TX.PUT. -/
def rxPutBody (s : State) : List ErrorKind × State :=
  if Config.rxMax ≤ s.rxlen.toNat then ([.invalidArgument], s)
  else ([], { appendRx s.data s with paylen := 0 })

/-- Body of BLD.RD (R145). -/
def bldRdBody (s : State) : List ErrorKind × State :=
  if argsOkRd s.argDev s.argReg s.argCnt then ([], storeRequest (readBody s.argDev s.argReg s.argCnt) s)
  else ([.invalidArgument], s)

/-- Body of BLD.WC (R146). -/
def bldWcBody (s : State) : List ErrorKind × State :=
  if argsOkWc s.argDev s.argReg then ([], storeRequest (coilBody s.argDev s.argReg s.argCoil) s)
  else ([.invalidArgument], s)

/-- Body of VALID (R148, R149). -/
def validBody (s : State) : List ErrorKind × State :=
  if (checkTrailer s).1 then
    ([], { (checkTrailer s).2 with paylen := BitVec.ofNat 16 (payloadLength s.rxlen.toNat) })
  else ([.checksumMismatch], { (checkTrailer s).2 with paylen := 0 })

/-- Body of ECHO (R150). -/
def echoBody (s : State) : List ErrorKind × State :=
  if sameBytes s then ([], s) else ([.echoMismatch], s)

/-- TX.CLR (R140). TXIDX goes to 0 with TXLEN, the one value in its range `0..TXLEN` then (10_state R38, R43; DEDUCED,
log entry 12). -/
def execTxClr (s : State) : Host.Outcome State Fault Refusal :=
  .next (runAtomic (fun t => ([], { t with txlen := 0, txidx := 0 })) s)

/-- TX.PUT (R141). -/
def execTxPut (s : State) : Host.Outcome State Fault Refusal := .next (runAtomic txPutBody s)

/-- RX.CLR (R142). -/
def execRxClr (s : State) : Host.Outcome State Fault Refusal :=
  .next (runAtomic (fun t => ([], { t with rxlen := 0, paylen := 0 })) s)

/-- RX.PUT (R143). -/
def execRxPut (s : State) : Host.Outcome State Fault Refusal := .next (runAtomic rxPutBody s)

/-- BLD.RD (R145). -/
def execBldRd (s : State) : Host.Outcome State Fault Refusal := .next (runAtomic bldRdBody s)

/-- BLD.WC (R146). -/
def execBldWc (s : State) : Host.Outcome State Fault Refusal := .next (runAtomic bldWcBody s)

/-- VALID (R148). -/
def execValid (s : State) : Host.Outcome State Fault Refusal := .next (runAtomic validBody s)

/-- ECHO (R150). -/
def execEcho (s : State) : Host.Outcome State Fault Refusal := .next (runAtomic echoBody s)

/-- `WR ARG_DEV, dev ; WR ARG_REG, reg ; WR ARG_CNT, cnt` (30_encoding R105). -/
def loadReadOperands (dev : Byte) (reg count : Half) (s : State) : State :=
  { s with argDev := dev.setWidth 32, argReg := reg.setWidth 32, argCnt := count.setWidth 32 }

/-- `WR ARG_DEV, dev ; WR ARG_REG, reg ; WR ARG_COIL, v` (30_encoding R105). -/
def loadCoilOperands (dev : Byte) (reg : Half) (v : BitVec 1) (s : State) : State :=
  { s with argDev := dev.setWidth 32, argReg := reg.setWidth 32, argCoil := v }

/-- REQ_RD (R145, 30_encoding R95): the block builds this frame, as the pseudo-statement `BLD.RD dev, reg, cnt` of R105
has it do. The frame's checksum bytes are no operands: R145 computes them (log entry 10). -/
def execReqRd (dev : Byte) (reg count : Half) (s : State) : Host.Outcome State Fault Refusal :=
  .next (runAtomic bldRdBody (loadReadOperands dev reg count s))

/-- REQ_WC.on (R146, 30_encoding R96, R97): the pseudo-statement `BLD.WC dev, reg, 1` of R105 (log entry 10). -/
def execReqWcOn (dev : Byte) (reg : Half) (s : State) : Host.Outcome State Fault Refusal :=
  .next (runAtomic bldWcBody (loadCoilOperands dev reg 1 s))

/-- REQ_WC.off (R146, 30_encoding R96, R97): the pseudo-statement `BLD.WC dev, reg, 0` of R105 (log entry 10). -/
def execReqWcOff (dev : Byte) (reg : Half) (s : State) : Host.Outcome State Fault Refusal :=
  .next (runAtomic bldWcBody (loadCoilOperands dev reg 0 s))

end Sys2Proof.Machine
end

