-- ==== Sys2Proof/Machine/Transactor.lean ====
section
/-! DEFINITION. The half-duplex transactor (42_transactor): the sequencer's steps (R172 to R179), the tests each command
makes after its exchange (R180 to R182), and the three commands, which run the sequencer to its end (R108, R187). -/

namespace Sys2Proof.Machine

/-- Release (R179): `CONN <- 0 ; record Close(p) ; PHASE <- IDLE`. -/
def releasePort (s : State) : State :=
  { s with conn := false, phase := .idle, history := s.history ++ [.closed s.port] }

/-- Timeout/EmptyResponse when fewer than `MIN_FRAME` bytes came (R180, 60_exceptions R244). -/
def lengthKinds (s : State) : List ErrorKind :=
  if s.rxlen.toNat < Config.minFrame then [.timeoutEmpty] else []

/-- ChecksumMismatch when the trailer does not match (60_exceptions R245). -/
def trailerKinds (s : State) : List ErrorKind :=
  if (checkTrailer s).1 then [] else [.checksumMismatch]

/-- EchoMismatch when the response is not the request (60_exceptions R246). -/
def echoKinds (s : State) : List ErrorKind :=
  if sameBytes s then [] else [.echoMismatch]

/-- The rest of XCHG after an exchange that ended normally (R180). -/
def afterXchg (s : State) : List ErrorKind × State := (lengthKinds s, s)

/-- The rest of RDREGS (R181): length, checksum, and the payload window when nothing was raised. -/
def afterRdregs (s : State) : List ErrorKind × State :=
  let ks := lengthKinds s ++ trailerKinds s
  (ks, { (checkTrailer s).2 with
          paylen := if ks = [] then BitVec.ofNat 16 (payloadLength s.rxlen.toNat) else 0 })

/-- The rest of WRCOIL (R182): length, checksum, echo; no payload window. -/
def afterWrcoil (s : State) : List ErrorKind × State :=
  (lengthKinds s ++ trailerKinds s ++ echoKinds s, { (checkTrailer s).2 with paylen := 0 })

/-- What a command does after its exchange ended normally. -/
def afterExchange : ExchangeCmd → State → List ErrorKind × State
  | .xchg => afterXchg
  | .rdregs => afterRdregs
  | .wrcoil => afterWrcoil

/-- Start (R172). -/
def exchangeStart (s : State) : State :=
  match askOpen { s with rxlen := 0, paylen := 0, txidx := 0 } with
  | (.ok, t) => { t with conn := true, phase := .tx, history := t.history ++ [.opened t.port] }
  | (.fail, t) => finishCommand [.transportFault] t

/-- Transmit step (R173), and the transmit fault (R174). -/
def exchangeTransmit (s : State) : State :=
  match askSend (s.txbuf.read s.txidx.toNat) s with
  | (.ok, t) =>
    { t with history := t.history ++ [.sent t.port (s.txbuf.read s.txidx.toNat)],
             txidx := BitVec.ofNat 16 (s.txidx.toNat + 1) }
  | (.fail, t) => finishCommand [.transportFault] (releasePort t)

/-- Turnaround (R175). -/
def exchangeTurnaround (s : State) : State := { s with phase := .rx }

/-- End of the wait (R177): release, then the rest of the command. -/
def endOfWait (c : ExchangeCmd) (s : State) : State :=
  finishCommand (afterExchange c (releasePort s)).1 (afterExchange c (releasePort s)).2

/-- Receive phase: the bound (R177), a byte (R176), the timeout (R177), a fault (R178). -/
def exchangeReceive (c : ExchangeCmd) (s : State) : State :=
  if Config.rxMax ≤ s.rxlen.toNat then endOfWait c s
  else match askEvent s with
    | (.byte b, t) => { appendRx b t with history := t.history ++ [.received t.port b] }
    | (.timeout, t) => endOfWait c t
    | (.fault, t) => finishCommand [.transportFault] (releasePort { t with rxlen := 0 })

/-- One step of the sequencer (10_state R38, R171) while the exchange of `c` runs. -/
def sequencerStep (c : ExchangeCmd) (s : State) : State :=
  match s.phase with
  | .idle => exchangeStart s
  | .tx => if s.txidx.toNat < s.txlen.toNat then exchangeTransmit s else exchangeTurnaround s
  | .rx => exchangeReceive c s

/-- One sampling point of the reset input, then one sequencer step of the running command if reset is not asserted. -/
def sequencerTick (s : State) : State :=
  if resetLevel s then applyReset (nextSample s)
  else match s.running with
    | some c => sequencerStep c (nextSample s)
    | none => nextSample s

/-- At most `n` sequencer ticks, ending when BUSY falls. -/
def sequencerRun : Nat → State → State
  | 0, s => s
  | n + 1, s => if s.busy then sequencerRun n (sequencerTick s) else s

/-- More ticks than any exchange takes (R187): one start, TXLEN transmit steps, one turnaround, at most RX_MAX receive
steps, one end of the wait. -/
def exchangeBound (s : State) : Nat := s.txlen.toNat + Config.rxMax + 3

/-- The exchange of `c` from its start to the end of the command: the host is held throughout (30_encoding R108). -/
def runExchange (c : ExchangeCmd) (s : State) : State :=
  sequencerRun (exchangeBound s) { s with running := some c }

/-- A command that builds its request and then runs its exchange: no exchange when the build raised a kind (R181, R182). -/
def buildAndExchange (build : State → List ErrorKind × State) (c : ExchangeCmd) (s : State) : State :=
  if (build s).1 = [] then runExchange c (build s).2 else finishCommand (build s).1 (build s).2

/-- XCHG as a state transformer. -/
def runXchg (s : State) : State := runExchange .xchg (beginCommand s)

/-- RDREGS as a state transformer. -/
def runRdregs (s : State) : State := buildAndExchange bldRdBody .rdregs (beginCommand s)

/-- WRCOIL as a state transformer. -/
def runWrcoil (s : State) : State := buildAndExchange bldWcBody .wrcoil (beginCommand s)

/-- XCHG (R180). -/
def execXchg (s : State) : Host.Outcome State Fault Refusal := .next (runXchg s)

/-- RDREGS (R181). -/
def execRdregs (s : State) : Host.Outcome State Fault Refusal := .next (runRdregs s)

/-- WRCOIL (R182). -/
def execWrcoil (s : State) : Host.Outcome State Fault Refusal := .next (runWrcoil s)

end Sys2Proof.Machine
end

