-- ==== Sys2Proof/Machine/Dispatch.lean ====
section
/-! DEFINITION. One arm for each constructor of Instr. -/

namespace Sys2Proof.Machine

def exec (i : Instr) (s : State) : Host.Outcome State Fault Refusal :=
  match i with
  | .crcInit => Sys2Proof.Machine.execCrcInit s
  | .crcUpd => Sys2Proof.Machine.execCrcUpd s
  | .txClr => Sys2Proof.Machine.execTxClr s
  | .txPut => Sys2Proof.Machine.execTxPut s
  | .rxClr => Sys2Proof.Machine.execRxClr s
  | .rxPut => Sys2Proof.Machine.execRxPut s
  | .bldRd => Sys2Proof.Machine.execBldRd s
  | .bldWc => Sys2Proof.Machine.execBldWc s
  | .valid => Sys2Proof.Machine.execValid s
  | .echo => Sys2Proof.Machine.execEcho s
  | .xchg => Sys2Proof.Machine.execXchg s
  | .rdregs => Sys2Proof.Machine.execRdregs s
  | .wrcoil => Sys2Proof.Machine.execWrcoil s
  | .reqRd dev reg count _ _ => Sys2Proof.Machine.execReqRd dev reg count s
  | .reqWcOn dev reg _ _ => Sys2Proof.Machine.execReqWcOn dev reg s
  | .reqWcOff dev reg _ _ => Sys2Proof.Machine.execReqWcOff dev reg s

end Sys2Proof.Machine
end

