-- ==== Sys2Proof/Machine/Fetch.lean ====
section
/-! DEFINITION. How an instruction reaches the block: the host's moves (20_memory R61, 30_encoding R107, R108). -/

namespace Sys2Proof.Machine

/-- `HostWrite(0, op)` (30_encoding R107): an assigned word runs its command, a reserved word raises IllegalCommand. -/
def runCommandWord (op : Byte) (s : State) : Host.Outcome State Fault Refusal :=
  match decode [op] with
  | .ok i => exec i s
  | .error _ => .next (illegalCommand s)

/-- `HostRead(n)` (20_memory R61): the answer goes to the host. -/
def hostRead (n : Nat) (s : State) : Host.Outcome State Fault Refusal :=
  match readRegister n s with
  | some v => .next { s with reads := s.reads ++ [(n, v)] }
  | none => .refused (.noSuchRegister n)

/-- `HostWrite(n, v)` (20_memory R61, 10_state R42). -/
def hostWrite (n v : Nat) (s : State) : Host.Outcome State Fault Refusal :=
  match regWidth n with
  | none => .refused (.noSuchRegister n)
  | some w =>
    if 2 ^ w ≤ v then .refused (.valueTooWide n v)
    else if n = 0 then runCommandWord (BitVec.ofNat 8 v) s
    else .next (writeRegister n v s)

/-- A request frame handed to the block to build (log entry 10). -/
def hostRequest (bytes : List Byte) (s : State) : Host.Outcome State Fault Refusal :=
  match bytes with
  | [b0, b1, b2, b3, b4, b5, b6, b7] =>
    match decode [b0, b1, b2, b3, b4, b5, b6, b7] with
    | .ok i => exec i s
    | .error _ => .refused .notARequestFrame
  | _ => .refused .notARequestFrame

/-- One move of the host, taken while BUSY = 0. -/
def hostMove (m : HostMove) (s : State) : Host.Outcome State Fault Refusal :=
  match m with
  | .read n => hostRead n s
  | .write n v => hostWrite n v s
  | .request bytes => hostRequest bytes s

/-- The next of the host's moves, or none: between commands the block waits (60_exceptions R259). -/
def hostTurn (s : State) : Host.Outcome State Fault Refusal :=
  match s.hostQueue with
  | [] => .next s
  | m :: rest => hostMove m { s with hostQueue := rest }

/-- The block's turn while BUSY = 1 (30_encoding R108: the host has no move): one step of the running exchange. -/
def busyTurn (s : State) : Host.Outcome State Fault Refusal :=
  match s.running with
  | some c => .next (sequencerStep c s)
  | none => .fault .noRunningCommand

/-- The host move that presents an instruction given as a row of the opcode table: a frame row is a request, any other
a write to CMD. -/
def fetchMove (nbits w : Nat) : HostMove :=
  if nbits = 64 then .request (tableBytes 64 w) else .write 0 (w % 256)

end Sys2Proof.Machine
end

