-- ==== Sys2Proof/Machine/Step.lean ====
section
/-! DEFINITION. One step of the machine, and how an instruction is placed where the next step takes it. -/

namespace Sys2Proof.Machine

/-- One step: reset if the reset input is asserted (70_reset_and_hazards R280), else a sequencer step while BUSY = 1, else
the host's next move. A command runs to its end within the step that takes its write to CMD (30_encoding R108). -/
def step (s : State) : Host.Outcome State Fault Refusal :=
  if resetLevel s then .next (applyReset (nextSample s))
  else if s.busy then busyTurn (nextSample s)
  else hostTurn (nextSample s)

/-- `s` with an instruction as the host's next move, and nothing in its way: reset not asserted, no command running. -/
def State.withFetchWord (s : State) (nbits w : Nat) : State :=
  { s with hostQueue := fetchMove nbits w :: s.hostQueue, resetPin := [], busy := false, running := none }

end Sys2Proof.Machine
end

