-- ==== Sys2Proof/Machine/HostNotation.lean ====
section
/-! DEFINITION. The host's notation (30_encoding R104, R105): statements, register names, and what each statement
expands to as a list of host moves. It adds nothing to the block. -/

namespace Sys2Proof.Machine

/-- The register names of 10_state R42. -/
inductive RegName where
  | cmd | status | result | cause
  | argDev | argReg | argCnt | argCoil
  | data | port | baud | crcLo
  | crcHi | txlen | rxlen | payoff
  | paylen | idx | txbyte | rxbyte
  deriving DecidableEq, Repr

/-- The register numbers of 10_state R42. -/
def regNumber : RegName → Nat
  | .cmd => 0 | .status => 1 | .result => 2 | .cause => 3
  | .argDev => 4 | .argReg => 5 | .argCnt => 6 | .argCoil => 7
  | .data => 8 | .port => 9 | .baud => 10 | .crcLo => 11
  | .crcHi => 12 | .txlen => 13 | .rxlen => 14 | .payoff => 15
  | .paylen => 16 | .idx => 17 | .txbyte => 18 | .rxbyte => 19

/-- A statement of the host notation (R104), the pseudo-statements of R105 among them. -/
inductive HostStmt where
  | wr (r : RegName) (v : Nat)
  | rd (r : RegName)
  | bare (i : Instr)
  | crcUpdImm (b : Byte)
  | txPutImm (b : Byte)
  | rxPutImm (b : Byte)
  | crc16Of (bs : List Byte)
  | txLoad (bs : List Byte)
  | rxLoad (bs : List Byte)
  | bldRdOf (dev reg cnt : Nat)
  | bldWcOf (dev reg v : Nat)
  | rdregsOf (dev reg cnt p : Nat)
  | wrcoilOf (dev reg v p : Nat)
  deriving DecidableEq, Repr

/-- `WR <REGNAME>, <value>` (R104). -/
def writeTo (r : RegName) (v : Nat) : HostMove := .write (regNumber r) v

/-- A bare mnemonic (R104): a write of the opcode to CMD; of a frame row, the request for that frame. -/
def bareMove (i : Instr) : HostMove :=
  match encode i with
  | [op] => .write 0 op.toNat
  | bytes => .request bytes

/-- A command fed once with each byte through DATA (R105). -/
def feed (i : Instr) (bs : List Byte) : List HostMove :=
  bs.flatMap (fun b => [writeTo .data b.toNat, bareMove i])

/-- The expansions of R104 and R105. -/
def expand : HostStmt → List HostMove
  | .wr r v => [writeTo r v]
  | .rd r => [.read (regNumber r)]
  | .bare i => [bareMove i]
  | .crcUpdImm b => feed .crcUpd [b]
  | .txPutImm b => feed .txPut [b]
  | .rxPutImm b => feed .rxPut [b]
  | .crc16Of bs => bareMove .crcInit :: feed .crcUpd bs
  | .txLoad bs => bareMove .txClr :: feed .txPut bs
  | .rxLoad bs => bareMove .rxClr :: feed .rxPut bs
  | .bldRdOf dev reg cnt =>
    [writeTo .argDev dev, writeTo .argReg reg, writeTo .argCnt cnt, bareMove .bldRd]
  | .bldWcOf dev reg v =>
    [writeTo .argDev dev, writeTo .argReg reg, writeTo .argCoil v, bareMove .bldWc]
  | .rdregsOf dev reg cnt p =>
    [writeTo .port p, writeTo .argDev dev, writeTo .argReg reg, writeTo .argCnt cnt, bareMove .rdregs]
  | .wrcoilOf dev reg v p =>
    [writeTo .port p, writeTo .argDev dev, writeTo .argReg reg, writeTo .argCoil v, bareMove .wrcoil]

/-- A list of statements as the host's moves. -/
def expandAll (ss : List HostStmt) : List HostMove := ss.flatMap expand

end Sys2Proof.Machine
end

