-- ==== Sys2Proof/Machine/HostReference.lean ====
section
/-! DEFINITION. The host reference of 48_host_reference, OUTSIDE the hardware (R210): the register decoder and the device
facade, as functions over the block's state that use its commands and its registers only (log entry 19). -/

namespace Sys2Proof.Machine

/-! ### The register decoder -/

/-- The six quantity tags, in the fixed order of R219. -/
inductive QuantityTag where
  | temperature
  | volumetricWaterContent
  | electricalConductivity
  | salinity
  | totalDissolvedSolids
  | epsilon
  deriving DecidableEq, Repr

/-- PhysicalReading (R224). A value "divided by 100" is kept exactly, as its number of hundredths. -/
inductive PhysicalReading where
  /-- Hundredths of a degree Celsius (R213). -/
  | temperature (hundredths : Int)
  /-- Hundredths of a percent (R214). -/
  | volumetricWaterContent (hundredths : Nat)
  /-- Hundredths of a µS/cm (R215). -/
  | electricalConductivity (hundredths : Nat)
  /-- mg/L (R216). -/
  | salinity (value : Nat)
  /-- mg/L (R217). -/
  | totalDissolvedSolids (value : Nat)
  /-- Hundredths, dimensionless (R218). -/
  | epsilon (hundredths : Nat)
  deriving DecidableEq, Repr

/-- The unsigned value of a RawRegisterValue (R211). -/
def rawValue (b0 b1 : Byte) : Nat := b0.toNat * 256 + b1.toNat

/-- Sign recovery of a temperature (R213): the threshold is 8000, the comparison strict. -/
def temperatureHundredths (raw : Nat) : Int := if 8000 < raw then (raw : Int) - 65536 else raw

/-- `decode(raw, quantity_tag)` (R212 to R218): `none` when the payload is not exactly 2 bytes. -/
def decodeReading (payload : List Byte) (tag : QuantityTag) : Option PhysicalReading :=
  match payload with
  | [b0, b1] =>
    match tag with
    | .temperature => some (.temperature (temperatureHundredths (rawValue b0 b1)))
    | .volumetricWaterContent => some (.volumetricWaterContent (rawValue b0 b1))
    | .electricalConductivity => some (.electricalConductivity (rawValue b0 b1))
    | .salinity => some (.salinity (rawValue b0 b1))
    | .totalDissolvedSolids => some (.totalDissolvedSolids (rawValue b0 b1))
    | .epsilon => some (.epsilon (rawValue b0 b1))
  | _ => none

/-! ### The device facade -/

/-- The host's parameters (R219): not given by the source. -/
structure HostParams where
  sensorDev : Word
  sensorPort : Byte
  pumpDev : Word
  pumpCoil : Word
  pumpPort : Byte
  deriving DecidableEq, Repr

/-- What one channel of a poll gives (R220). -/
inductive ChannelResult where
  | reading (r : PhysicalReading)
  | failure (cause : BitVec 3) (result : Byte)
  | malformedLength
  deriving DecidableEq, Repr

/-- The channel table (R219). -/
def channelTable : List (Word × QuantityTag) :=
  [(0, .temperature), (1, .volumetricWaterContent), (2, .electricalConductivity),
   (3, .salinity), (4, .totalDissolvedSolids), (5, .epsilon)]

/-- `RDREGS dev, reg, cnt @p` (30_encoding R105). -/
def rdregsStatement (dev reg cnt : Word) (p : Byte) (s : State) : State :=
  runRdregs { s with port := p, argDev := dev, argReg := reg, argCnt := cnt }

/-- `WRCOIL dev, reg, v @p` (30_encoding R105). -/
def wrcoilStatement (dev reg : Word) (v : BitVec 1) (p : Byte) (s : State) : State :=
  runWrcoil { s with port := p, argDev := dev, argReg := reg, argCoil := v }

/-- RESULT.OK. -/
def resultOk (s : State) : Bool := s.result.getLsbD 0

/-- `WR IDX, i ; RD RXBYTE`. -/
def readRxAt (i : Half) (s : State) : Byte × State := (rxWindow { s with idx := i }, { s with idx := i })

/-- One row of poll_all (R220). -/
def pollChannel (h : HostParams) (reg : Word) (tag : QuantityTag) (s : State) : ChannelResult × State :=
  let t := rdregsStatement h.sensorDev reg 1 h.sensorPort s
  if resultOk t = false then (.failure t.cause t.result, t)
  else if t.paylen ≠ 2 then (.malformedLength, t)
  else
    let b0 := readRxAt 3 t
    let b1 := readRxAt 4 b0.2
    match decodeReading [b0.1, b1.1] tag with
    | some r => (.reading r, b1.2)
    | none => (.malformedLength, b1.2)

/-- What a poll hands upward (R220, R223): one result for each of the six tags, in the order of the channel table. -/
abbrev SensorSnapshot := List (QuantityTag × ChannelResult)

/-- The rows of a poll in order, whatever the outcome of the earlier ones (R220). -/
def pollRows (h : HostParams) : List (Word × QuantityTag) → State → SensorSnapshot × State
  | [], s => ([], s)
  | (reg, tag) :: rows, s =>
    ((tag, (pollChannel h reg tag s).1) :: (pollRows h rows (pollChannel h reg tag s).2).1,
     (pollRows h rows (pollChannel h reg tag s).2).2)

/-- poll_all (R220): a channel's failure is its own result, never a default value. -/
def pollAll (h : HostParams) (s : State) : SensorSnapshot × State := pollRows h channelTable s

/-- The pump's two phases (R222). -/
inductive PumpPhase where
  | idle
  | pumping
  deriving DecidableEq, Repr

/-- A pump request (R221, R222): the on command from Idle; while the pump runs it is rejected (U12). -/
def pumpRequest (h : HostParams) (ph : PumpPhase) (s : State) : Option (Bool × PumpPhase × State) :=
  match ph with
  | .idle =>
    let t := wrcoilStatement h.pumpDev h.pumpCoil 1 h.pumpPort s
    some (resultOk t, .pumping, t)
  | .pumping => none

/-- The end of the dwell (R221): the off command, whatever the on command's result. -/
def pumpStop (h : HostParams) (s : State) : Bool × PumpPhase × State :=
  let t := wrcoilStatement h.pumpDev h.pumpCoil 0 h.pumpPort s
  (resultOk t, .idle, t)

/-- The host program of R221: (on_ok, off_ok) and the block's state. The dwell is host time, in which the block is idle. -/
def pumpCycle (h : HostParams) (s : State) : (Bool × Bool) × State :=
  let on := wrcoilStatement h.pumpDev h.pumpCoil 1 h.pumpPort s
  let off := pumpStop h on
  ((resultOk on, off.1), off.2.2)

/-- actuate_pump (R221, R223): the one boolean handed upward, formed from the two echo results in a way the source does
not give (free value, log entry 19), and the block's state. -/
def actuatePump (h : HostParams) (s : State) : Bool × State :=
  (Config.pumpOutcome (pumpCycle h s).1.1 (pumpCycle h s).1.2, (pumpCycle h s).2)

end Sys2Proof.Machine
end

