-- ==== Sys2Proof/Safety.lean ====
section
/-! DEFINITION. The terms the claims use: the invariant of the machine (10_state R43), how a command ends, and the
big-step view of an exchange (42_transactor R184). -/

namespace Sys2Proof.Machine

/-- What holds of the block between any two steps of it: 10_state R43 with the buffers' canonical form. -/
structure StateInv (s : State) : Prop where
  /-- TXBUF is in canonical form. -/
  txWf : s.txbuf.wf
  /-- RXBUF is in canonical form. -/
  rxWf : s.rxbuf.wf
  /-- TXBUF has the indices `0..TX_MAX-1` only (20_memory R60, R63). -/
  txInside : ∀ c ∈ s.txbuf, c.1 < Config.txMax
  /-- RXBUF has the indices `0..RX_MAX-1` only. -/
  rxInside : ∀ c ∈ s.rxbuf, c.1 < Config.rxMax
  /-- `TXLEN <= TX_MAX`. -/
  txlenBound : s.txlen.toNat ≤ Config.txMax
  /-- `TXIDX <= TXLEN`, at every point at all. -/
  txidxBound : s.txidx.toNat ≤ s.txlen.toNat
  /-- `RXLEN <= RX_MAX`. -/
  rxlenBound : s.rxlen.toNat ≤ Config.rxMax
  /-- `PAYLEN = 0` or `PAYLEN = RXLEN - 5`. -/
  payWindow : s.paylen = 0 ∨ s.paylen.toNat + 5 = s.rxlen.toNat
  /-- `CONN = 1` exactly while PHASE is TX or RX. -/
  connPhase : s.conn = true ↔ s.phase ≠ .idle
  /-- BUSY = 1 between two steps exactly while an exchange command runs. -/
  busyRunning : s.busy = s.running.isSome
  /-- `PHASE = IDLE` when no command is executing. -/
  idleReleased : s.busy = false → s.phase = .idle
  /-- RESULT is 0 (no command has ended since reset, or one is running) or a legal report (R34). -/
  resultReport : s.result = 0 ∨ resultLegal s.result = true
  /-- CAUSE agrees with RESULT (R35). -/
  causeAgrees : s.cause = causeOf s.result
  /-- A running command has cleared RESULT. -/
  busyCleared : s.busy = true → s.result = 0
  /-- In TX nothing has been received, and there is no payload window. -/
  txPhase : s.phase = .tx → s.rxlen = 0 ∧ s.paylen = 0
  /-- In RX: the whole request has been sent, and there is no payload window. -/
  rxPhase : s.phase = .rx → s.txidx = s.txlen ∧ s.paylen = 0

/-- No command is executing (10_state R43): BUSY = 0, the port released, PHASE IDLE. -/
def atRest (s : State) : Prop := s.busy = false ∧ s.conn = false ∧ s.phase = .idle

/-- The reset input is not asserted at any coming sampling point. -/
def resetQuiet (s : State) : Prop := ∀ level ∈ s.resetPin, level = false

/-- `s` at the end of a command that reported RESULT `r` and CAUSE `c`. -/
def ended (r : Byte) (c : BitVec 3) (s : State) : State :=
  { s with busy := false, running := none, result := r, cause := c, tick := s.tick + 1 }

/-- `t` with the environment's coming answers, the reset input and the counter of free values as in `s`: for saying that
two states agree in everything else. -/
def sameWorld (s t : State) : State :=
  { t with opens := s.opens, sends := s.sends, events := s.events, resetPin := s.resetPin, tick := s.tick }

/-! ### The big-step view of an exchange (R184) -/

/-- The environment's choice among four outcomes (R184). -/
inductive ExchangeOutcome where
  | openFail
  | txFail (k : Nat)
  | rxFault (r : List Byte)
  | response (r : List Byte)
  deriving DecidableEq, Repr

/-- The outcomes the environment may choose in `s` (R184): `OpenFail` is forced when `PORT >= NPORTS`. -/
def outcomePossible (s : State) : ExchangeOutcome → Prop
  | .openFail => True
  | .txFail k => s.port.toNat < Config.nPorts ∧ k < s.txlen.toNat
  | .rxFault r => s.port.toNat < Config.nPorts ∧ r.length < Config.rxMax
  | .response r => s.port.toNat < Config.nPorts ∧ r.length ≤ Config.rxMax

/-- The table of R184: the state after the exchange that began at rest in `s`. In RXBUF, at and beyond RXLEN, stands what
was received there, which no rule specifies and nothing reads. -/
def exchangeResult (s : State) : ExchangeOutcome → State
  | .openFail => { s with rxlen := 0, paylen := 0, txidx := 0 }
  | .txFail k =>
    { s with
      rxlen := 0, paylen := 0, txidx := BitVec.ofNat 16 k
      history := s.history ++ [.opened s.port] ++ ((txBytes s).take k).map (.sent s.port) ++ [.closed s.port] }
  | .rxFault r =>
    { s with
      rxlen := 0, paylen := 0, txidx := s.txlen, rxbuf := s.rxbuf.writeAll 0 r
      history := s.history ++ [.opened s.port] ++ (txBytes s).map (.sent s.port) ++ r.map (.received s.port)
        ++ [.closed s.port] }
  | .response r =>
    { s with
      rxlen := BitVec.ofNat 16 r.length, paylen := 0, txidx := s.txlen, rxbuf := s.rxbuf.writeAll 0 r
      history := s.history ++ [.opened s.port] ++ (txBytes s).map (.sent s.port) ++ r.map (.received s.port)
        ++ [.closed s.port] }

/-- The environment's answers that bring an outcome about, for a request of `n` bytes. -/
def scriptOpens : ExchangeOutcome → List Answer
  | .openFail => [.fail]
  | _ => [.ok]

def scriptSends (n : Nat) : ExchangeOutcome → List Answer
  | .openFail => []
  | .txFail k => List.replicate k .ok ++ [.fail]
  | _ => List.replicate n .ok

def scriptEvents : ExchangeOutcome → List LineEvent
  | .openFail => []
  | .txFail _ => []
  | .rxFault r => r.map .byte ++ [.fault]
  | .response r => r.map .byte ++ [.timeout]

/-- `s` with an environment that will choose the outcome `o` for a request of `n` bytes, and with reset not asserted. -/
def withOutcome (o : ExchangeOutcome) (n : Nat) (s : State) : State :=
  { s with opens := scriptOpens o, sends := scriptSends n o, events := scriptEvents o, resetPin := [] }

/-! ### What a command reports of a response, in terms of the byte sequences alone -/

/-- Timeout/EmptyResponse and ChecksumMismatch of a response (42_transactor R181; 60_exceptions R244, R245). -/
def readKinds (r : List Byte) : List ErrorKind :=
  (if r.length < Config.minFrame then [ErrorKind.timeoutEmpty] else [])
    ++ (if validFrame r then [] else [ErrorKind.checksumMismatch])

/-- The kinds of a write-coil response (42_transactor R182). -/
def writeKinds (request r : List Byte) : List ErrorKind :=
  readKinds r ++ (if r = request then [] else [ErrorKind.echoMismatch])

/-- The accumulators after a response was checked (41_codec R152): `old` when there are fewer than two bytes. -/
def checkedCrc (old : Byte × Byte) (r : List Byte) : Byte × Byte :=
  if r.length < 2 then old else crc16 (r.take (r.length - 2))

/-- Bytes 0 to 5 of a read-registers request, from its operands as numbers (30_encoding R95, R98). -/
def readRequestBody (dev reg count : Nat) : List Byte :=
  [BitVec.ofNat 8 dev, 0x03, BitVec.ofNat 8 (reg / 256), BitVec.ofNat 8 (reg % 256),
   BitVec.ofNat 8 (count / 256), BitVec.ofNat 8 (count % 256)]

/-- Bytes 0 to 5 of a write-coil request, from its operands as numbers (30_encoding R96, R97, R98). -/
def coilRequestBody (dev reg : Nat) (on : Bool) : List Byte :=
  [BitVec.ofNat 8 dev, 0x05, BitVec.ofNat 8 (reg / 256), BitVec.ofNat 8 (reg % 256),
   if on then 0xFF else 0x00, 0x00]

/-- A body with its checksum appended, low byte first (30_encoding R94, R99). -/
def sealed (body : List Byte) : List Byte := body ++ [(crc16 body).1, (crc16 body).2]

/-- `s` with the request `sealed body` in TXBUF and its checksum in the accumulators (41_codec R145, R146, R152). -/
def withRequest (body : List Byte) (s : State) : State :=
  { s with
    txbuf := s.txbuf.writeAll 0 (sealed body), txlen := 8
    crcLo := (crc16 body).1, crcHi := (crc16 body).2 }

/-- `s` with the fields of a frame row of the opcode table in the operand registers (30_encoding R105, log entry 10). -/
def withFrameOperands : Instr → State → State
  | .reqRd dev reg count _ _, s =>
    { s with argDev := dev.setWidth 32, argReg := reg.setWidth 32, argCnt := count.setWidth 32 }
  | .reqWcOn dev reg _ _, s => { s with argDev := dev.setWidth 32, argReg := reg.setWidth 32, argCoil := 1 }
  | .reqWcOff dev reg _ _, s => { s with argDev := dev.setWidth 32, argReg := reg.setWidth 32, argCoil := 0 }
  | .crcInit, s | .crcUpd, s | .txClr, s | .txPut, s | .rxClr, s | .rxPut, s => s
  | .bldRd, s | .bldWc, s | .valid, s | .echo, s | .xchg, s | .rdregs, s | .wrcoil, s => s

/-! ### The three commands that contain an exchange -/

/-- The instruction of an exchange command. -/
def exchangeInstr : ExchangeCmd → Instr
  | .xchg => .xchg
  | .rdregs => .rdregs
  | .wrcoil => .wrcoil

/-- The operands are in range (41_codec R144); XCHG has none to check. -/
def operandsInRange : ExchangeCmd → State → Prop
  | .xchg, _ => True
  | .rdregs, s => s.argDev.toNat ≤ 255 ∧ s.argReg.toNat ≤ 65535 ∧ s.argCnt.toNat ≤ 65535
  | .wrcoil, s => s.argDev.toNat ≤ 255 ∧ s.argReg.toNat ≤ 65535

/-- `s` with the request in place that the command sends: XCHG sends what TXBUF holds. -/
def requestReady : ExchangeCmd → State → State
  | .xchg, s => s
  | .rdregs, s => withRequest (readRequestBody s.argDev.toNat s.argReg.toNat s.argCnt.toNat) s
  | .wrcoil, s => withRequest (coilRequestBody s.argDev.toNat s.argReg.toNat (s.argCoil == 1)) s

/-- `s` at the end of a command that raised `ks` (60_exceptions R248). -/
def reported (ks : List ErrorKind) (s : State) : State := ended (resultOf ks) (causeOf (resultOf ks)) s

/-- The end of a command whose exchange began in `s` and had the outcome `o` (R180, R181, R182, R184, R243). -/
def commandEnd (c : ExchangeCmd) (s : State) (o : ExchangeOutcome) : State :=
  match o with
  | .response r =>
    let e := exchangeResult s (.response r)
    match c with
    | .xchg => reported (if r.length < Config.minFrame then [.timeoutEmpty] else []) e
    | .rdregs =>
      reported (readKinds r)
        { e with
          crcLo := (checkedCrc (s.crcLo, s.crcHi) r).1, crcHi := (checkedCrc (s.crcLo, s.crcHi) r).2
          paylen := if readKinds r = [] then BitVec.ofNat 16 (payloadLength r.length) else 0 }
    | .wrcoil =>
      reported (writeKinds (txBytes s) r)
        { e with
          crcLo := (checkedCrc (s.crcLo, s.crcHi) r).1, crcHi := (checkedCrc (s.crcLo, s.crcHi) r).2
          paylen := 0 }
  | o => reported [.transportFault] (exchangeResult s o)

/-- The block's own state alone: `s` with nothing of the world around it. -/
def blockOnly (s : State) : State :=
  { s with
    hostQueue := [], reads := [], opens := [], sends := [], events := [], tick := 0, resetPin := [], history := [] }

/-! ### Which bytes an instruction stores to -/

/-- The indices of TXBUF that `i` stores to in `s` (41_codec R141, R145, R146; 42_transactor R181, R182). -/
def storesTx (i : Instr) (s : State) (a : Nat) : Prop :=
  match i with
  | .txPut => s.txlen.toNat < Config.txMax ∧ a = s.txlen.toNat
  | .bldRd | .rdregs => operandsInRange .rdregs s ∧ a < Config.txMax
  | .bldWc | .wrcoil => operandsInRange .wrcoil s ∧ a < Config.txMax
  | .reqRd .. | .reqWcOn .. | .reqWcOff .. => a < Config.txMax
  | .crcInit | .crcUpd | .txClr | .rxClr | .rxPut | .valid | .echo | .xchg => False

/-- The indices of RXBUF that `i` may store to in `s` (41_codec R143; 42_transactor R176). -/
def storesRx (i : Instr) (s : State) (a : Nat) : Prop :=
  match i with
  | .rxPut => s.rxlen.toNat < Config.rxMax ∧ a = s.rxlen.toNat
  | .xchg => a < Config.rxMax
  | .rdregs => operandsInRange .rdregs s ∧ a < Config.rxMax
  | .wrcoil => operandsInRange .wrcoil s ∧ a < Config.rxMax
  | .crcInit | .crcUpd | .txClr | .txPut | .rxClr | .bldRd | .bldWc | .valid | .echo => False
  | .reqRd .. | .reqWcOn .. | .reqWcOff .. => False

end Sys2Proof.Machine
end

