-- ==== Sys2Proof/Certificates/Slice0/Obligations.lean ====
section
/-! DEFINITION. The statements for the provers. Unless a statement says otherwise: `ended r c u` is `u` at the end of a
command with RESULT `r` and CAUSE `c`; `sameWorld s t = sameWorld s u` says that `t` and `u` agree in everything but the
environment's coming answers, the reset input and the counter of free values. A buffer's bytes at and beyond its length
keep what was stored there: the spec leaves them unspecified, so that is the model's choice (log entry 6). That `exec` runs
a command with an exchange from its start to its end is the model's choice too (log entry 1), and so is that a step takes
one move of the host (log entry 2). -/

open Sys2Proof Sys2Proof.Machine

/-! ### Encoding -/

/-- Words and frames written out from 30_encoding R92, R95, R96 and R97 decode to what they stand for. -/
def Obligations.SpecWordsDecode : Prop :=
  decode [0x01] = .ok .crcInit ∧ decode [0x02] = .ok .crcUpd ∧ decode [0x10] = .ok .txClr ∧
  decode [0x11] = .ok .txPut ∧ decode [0x12] = .ok .rxClr ∧ decode [0x13] = .ok .rxPut ∧
  decode [0x20] = .ok .bldRd ∧ decode [0x21] = .ok .bldWc ∧ decode [0x22] = .ok .valid ∧
  decode [0x23] = .ok .echo ∧ decode [0x30] = .ok .xchg ∧ decode [0x33] = .ok .rdregs ∧
  decode [0x35] = .ok .wrcoil ∧
  decode [0x04, 0x03, 0x12, 0x34, 0x00, 0x02, 0x80, 0xE8] = .ok (.reqRd 0x04 0x1234 0x0002 0x80 0xE8) ∧
  decode [0x02, 0x05, 0x00, 0x03, 0xFF, 0x00, 0x7C, 0x09] = .ok (.reqWcOn 0x02 0x0003 0x7C 0x09) ∧
  decode [0x02, 0x05, 0x00, 0x03, 0x00, 0x00, 0x3D, 0xF9] = .ok (.reqWcOff 0x02 0x0003 0x3D 0xF9)

/-- Decoding an encoded instruction gives it back, with every field at every value (R92, R95, R96). -/
def Obligations.DecodeInvertsEncode : Prop :=
  ∀ i : Instr, decode (encode i) = .ok i

/-- Whatever the decoder accepts is the encoding of what it answers: no bytes have two readings (R92, R95, R96). -/
def Obligations.EncodeInvertsDecode : Prop :=
  ∀ (bytes : List Byte) (i : Instr), decode bytes = .ok i → encode i = bytes

/-- Thirteen command words are assigned, the other 243 reserved (R92, R93). -/
def Obligations.ThirteenWordsAreAssigned : Prop :=
  (∀ op : Byte, (∃ i, decode [op] = .ok i) ↔
    op ∈ ([0x01, 0x02, 0x10, 0x11, 0x12, 0x13, 0x20, 0x21, 0x22, 0x23, 0x30, 0x33, 0x35] : List Byte)) ∧
  ((List.range 256).filter fun n => (decodeTableWord 8 n).isNone).length = 243

/-! ### The step -/

/-- While no command runs and reset is not asserted, a write of an assigned word to CMD runs that instruction (R107). That
a command with an exchange, a sequence of sequencer steps by 42_transactor R171, runs to its end within this one step is
the model's choice (log entry 1); `SingleStepsReachTheCommandsEnd` says that the single steps agree. -/
def Obligations.StepRunsTheCommandWritten : Prop :=
  ∀ (s : State) (v : Nat) (q : List HostMove) (i : Instr),
    resetLevel s = false → s.busy = false → s.hostQueue = .write 0 v :: q → v < 256 →
    decode [BitVec.ofNat 8 v] = .ok i →
    step s = exec i { s with hostQueue := q, resetPin := s.resetPin.tail }

/-- A request frame as the host's next move runs the frame's row of the opcode table (the model's choice, log entry 10). -/
def Obligations.StepBuildsTheFrameRequested : Prop :=
  ∀ (s : State) (bytes : List Byte) (q : List HostMove) (i : Instr),
    resetLevel s = false → s.busy = false → s.hostQueue = .request bytes :: q → bytes.length = 8 →
    decode bytes = .ok i →
    step s = exec i { s with hostQueue := q, resetPin := s.resetPin.tail }

/-- A reserved word raises IllegalCommand and changes nothing else (R93, R241). -/
def Obligations.ReservedWordRaisesIllegalCommand : Prop :=
  ∀ (s : State) (v : Nat) (q : List HostMove),
    resetLevel s = false → s.busy = false → s.hostQueue = .write 0 v :: q → v < 256 →
    v ∉ [0x01, 0x02, 0x10, 0x11, 0x12, 0x13, 0x20, 0x21, 0x22, 0x23, 0x30, 0x33, 0x35] →
    step s = .next (ended 0x02 1 { s with hostQueue := q, resetPin := s.resetPin.tail })

/-- The register table: what each number reads, and its width (10_state R42; STATUS: R33; windows below the length: R37). -/
def Obligations.RegistersReadByNumber : Prop :=
  (∀ s : State,
    readRegister 0 s = some 0 ∧
    readRegister 1 s = some (BitVec.ofNat 32 (s.busy.toNat + 2 * s.conn.toNat +
      4 * (match s.phase with | .idle => 0 | .tx => 1 | .rx => 2))) ∧
    readRegister 2 s = some (s.result.setWidth 32) ∧ readRegister 3 s = some (s.cause.setWidth 32) ∧
    readRegister 4 s = some s.argDev ∧ readRegister 5 s = some s.argReg ∧ readRegister 6 s = some s.argCnt ∧
    readRegister 7 s = some (s.argCoil.setWidth 32) ∧ readRegister 8 s = some (s.data.setWidth 32) ∧
    readRegister 9 s = some (s.port.setWidth 32) ∧ readRegister 10 s = some s.baud ∧
    readRegister 11 s = some (s.crcLo.setWidth 32) ∧ readRegister 12 s = some (s.crcHi.setWidth 32) ∧
    readRegister 13 s = some (s.txlen.setWidth 32) ∧ readRegister 14 s = some (s.rxlen.setWidth 32) ∧
    readRegister 15 s = some 3 ∧ readRegister 16 s = some (s.paylen.setWidth 32) ∧
    readRegister 17 s = some (s.idx.setWidth 32) ∧
    (s.idx.toNat < s.txlen.toNat → readRegister 18 s = some ((s.txbuf.read s.idx.toNat).setWidth 32)) ∧
    (s.idx.toNat < s.rxlen.toNat → readRegister 19 s = some ((s.rxbuf.read s.idx.toNat).setWidth 32))) ∧
  (List.range 20).map regWidth =
    [some 8, some 8, some 8, some 3, some 32, some 32, some 32, some 1, some 8, some 8,
     some 32, some 8, some 8, some 16, some 16, some 16, some 16, some 16, some 8, some 8]

/-- STATUS (10_state R33): BUSY in bit 0, CONN in bit 1, PHASE in bits 3 to 2, bits 7 to 4 read 0. -/
def Obligations.StatusHasItsFields : Prop :=
  ∀ s : State, ∃ v : Byte, readRegister 1 s = some (v.setWidth 32) ∧
    v.getLsbD 0 = s.busy ∧ v.getLsbD 1 = s.conn ∧
    v.extractLsb' 2 2 = (match s.phase with | .idle => 0 | .tx => 1 | .rx => 2) ∧ v.extractLsb' 4 4 = 0

/-- A host read answers the register's value and has no other effect (20_memory R61); a number above 19 has no meaning
(93_implementation_defined U4). -/
def Obligations.HostReadHasNoSideEffect : Prop :=
  ∀ (s : State) (n : Nat) (q : List HostMove),
    resetLevel s = false → s.busy = false → s.hostQueue = .read n :: q →
    (∀ v, readRegister n { s with hostQueue := q, resetPin := s.resetPin.tail } = some v →
      step s = .next { s with hostQueue := q, resetPin := s.resetPin.tail, reads := s.reads ++ [(n, v)] }) ∧
    (n ≤ 19 → ∃ v, readRegister n { s with hostQueue := q, resetPin := s.resetPin.tail } = some v) ∧
    (19 < n → step s = .refused (.noSuchRegister n))

/-- A host write of a value of the register's width replaces the whole register and leaves every other register, the
buffers and the sequencer as they were; the windows follow IDX (20_memory R61, 10_state R42). -/
def Obligations.HostWriteReplacesTheRegister : Prop :=
  ∀ (s : State) (n v w : Nat) (q : List HostMove),
    resetLevel s = false → s.busy = false → s.hostQueue = .write n v :: q →
    n ∈ [4, 5, 6, 7, 8, 9, 10, 17] → regWidth n = some w → v < 2 ^ w →
    ∃ t, step s = .next t ∧ readRegister n t = some (BitVec.ofNat 32 v) ∧
      (∀ m, m ≠ n → m ≠ 18 → m ≠ 19 → readRegister m t = readRegister m s) ∧
      t.txbuf = s.txbuf ∧ t.rxbuf = s.rxbuf ∧ t.txidx = s.txidx ∧ t.running = s.running ∧
      t.hostQueue = q ∧ t.reads = s.reads ∧ t.history = s.history

/-- A host write to a read-only register changes nothing (20_memory R61, 10_state R42). -/
def Obligations.HostWriteToReadOnlyIsIgnored : Prop :=
  ∀ (s : State) (n v w : Nat) (q : List HostMove),
    resetLevel s = false → s.busy = false → s.hostQueue = .write n v :: q →
    n ∈ [1, 2, 3, 11, 12, 13, 14, 15, 16, 18, 19] → regWidth n = some w → v < 2 ^ w →
    step s = .next { s with hostQueue := q, resetPin := s.resetPin.tail }

/-- While BUSY = 1 the host has no move: a step of the block takes none and changes no register the host writes
(30_encoding R108). -/
def Obligations.HostIsHeldWhileBusy : Prop :=
  ∀ s t : State, resetLevel s = false → s.busy = true → step s = .next t →
    t.hostQueue = s.hostQueue ∧ t.reads = s.reads ∧ t.argDev = s.argDev ∧ t.argReg = s.argReg ∧
    t.argCnt = s.argCnt ∧ t.argCoil = s.argCoil ∧ t.data = s.data ∧ t.port = s.port ∧ t.baud = s.baud ∧ t.idx = s.idx

/-- The reset values (10_state R41). -/
def Obligations.ResetHoldsTheSpecifiedValues : Prop :=
  State.reset.crcLo = 0xFF ∧ State.reset.crcHi = 0xFF ∧ State.reset.argDev = 0 ∧ State.reset.argReg = 0 ∧
  State.reset.argCnt = 0 ∧ State.reset.argCoil = 0 ∧ State.reset.data = 0 ∧ State.reset.txlen = 0 ∧
  State.reset.rxlen = 0 ∧ State.reset.port = 0 ∧ State.reset.baud = 9600 ∧ readRegister 1 State.reset = some 0 ∧
  State.reset.phase = .idle ∧ State.reset.txidx = 0 ∧ State.reset.result = 0 ∧ State.reset.cause = 0 ∧
  State.reset.paylen = 0 ∧ State.reset.idx = 0

/-- Asserting reset, in any state, puts every piece of the block's state at its reset value, an open port released
(70_reset_and_hazards R280, R281); what it leaves of the world around is the model's choice, log entry 9. The buffers' bytes,
which 10_state R41 leaves unspecified, read as blank after it: the model's choice, log entry 6. -/
def Obligations.ResetReachesTheResetState : Prop :=
  ∀ s : State, resetLevel s = true →
    ∃ t, step s = .next t ∧ blockOnly t = blockOnly State.reset ∧ t.hostQueue = s.hostQueue ∧
      t.history = (if s.conn then s.history ++ [.closed s.port] else s.history)

/-! ### The command cycle -/

/-- RESULT and CAUSE from the kinds raised (60_exceptions R248): each kind's bit is set exactly when it was raised, OK
exactly when none was, bit 7 never, and CAUSE is the lowest code raised, or 0. -/
def Obligations.ResultAndCauseReportTheKindsRaised : Prop :=
  ∀ ks : List ErrorKind,
    (∀ k, (resultOf ks).getLsbD (kindCode k) = decide (k ∈ ks)) ∧
    (resultOf ks).getLsbD 0 = decide (ks = []) ∧ (resultOf ks).getLsbD 7 = false ∧
    (ks = [] → causeOf (resultOf ks) = 0) ∧
    (ks ≠ [] → ∃ k ∈ ks, (causeOf (resultOf ks)).toNat = kindCode k ∧ ∀ j ∈ ks, kindCode k ≤ kindCode j)

/-- Every instruction that completes leaves a legal report: bit 7 clear, OK exactly when no error bit is set, and CAUSE
the lowest-numbered error bit (10_state R34, R35). -/
def Obligations.EveryInstructionReports : Prop :=
  ∀ (i : Instr) (s t : State), resetQuiet s → atRest s → exec i s = .next t →
    t.result.getLsbD 7 = false ∧ (t.result.getLsbD 0 = true ↔ t.result.extractLsb' 1 6 = 0) ∧
    t.cause = causeOf t.result

/-- No command word writes an operand or configuration register (30_encoding R109). -/
def Obligations.CommandsKeepTheOperandRegisters : Prop :=
  ∀ (i : Instr) (s t : State), resetQuiet s → (encode i).length = 1 → exec i s = .next t →
    t.argDev = s.argDev ∧ t.argReg = s.argReg ∧ t.argCnt = s.argCnt ∧ t.argCoil = s.argCoil ∧ t.data = s.data ∧
    t.port = s.port ∧ t.baud = s.baud ∧ t.idx = s.idx

/-! ### The checksum engine -/

/-- CRC.INIT (40_crc R121). -/
def Obligations.CrcInitSeedsBothAccumulators : Prop :=
  ∀ s : State, exec .crcInit s = .next (ended 0x01 0 { s with crcLo := 0xFF, crcHi := 0xFF })

/-- CRC.UPD (40_crc R122): one table step with DATA, both new values from the old ones. -/
def Obligations.CrcUpdTakesOneTableStep : Prop :=
  ∀ (s : State) (entry : Half), entry = crcTable.getD (s.crcLo ^^^ s.data).toNat 0 →
    exec .crcUpd s =
      .next (ended 0x01 0 { s with crcLo := entry.extractLsb' 0 8 ^^^ s.crcHi, crcHi := entry.extractLsb' 8 8 })

/-- The 256 literals are what the procedure of 40_crc R125 generates. -/
def Obligations.TableIsGeneratedByThePolynomial : Prop :=
  crcTable.length = 256 ∧
  ∀ i : Byte, crcTable.getD i.toNat 0 =
    Nat.iterate (fun c : Half => if c.getLsbD 0 then (c >>> 1) ^^^ 0xA001 else c >>> 1) 8 (i.setWidth 16)

/-- The step on the 16-bit accumulator `c = hi * 256 + lo` (40_crc R127): the table form and the bit-serial form. -/
def Obligations.StepIsTheSixteenBitForm : Prop :=
  ∀ lo hi w : Byte,
    (crcStep (lo, hi) w).2 ++ (crcStep (lo, hi) w).1 =
      (((hi ++ lo : Half) >>> 8) ^^^ crcEntry (((hi ++ lo : Half) ^^^ w.setWidth 16).setWidth 8)) ∧
    (crcStep (lo, hi) w).2 ++ (crcStep (lo, hi) w).1 =
      Nat.iterate (fun c : Half => if c.getLsbD 0 then (c >>> 1) ^^^ 0xA001 else c >>> 1) 8
        ((hi ++ lo : Half) ^^^ w.setWidth 16)

/-- The host's `CRC16 d[0] ... d[n-1]` (30_encoding R105) leaves `crc16(d)` in the accumulators, low byte in CRC_LO
(40_crc R123); `crc16` is the fold of the step over the bytes from 0xFF, 0xFF. That each of the
host's moves is one step of the machine is the model's choice, log entry 2. -/
def Obligations.StreamedBytesGiveTheChecksum : Prop :=
  ∀ (d : List Byte) (s : State),
    s.resetPin = [] → s.busy = false → s.hostQueue = expand (.crc16Of d) →
    ∃ t : State, Host.Core.run Sys2Proof.core (2 * d.length + 1) s = .next t ∧
      (t.crcLo, t.crcHi) = d.foldl crcStep (0xFF, 0xFF) ∧ t.result = 0x01 ∧ t.hostQueue = [] ∧ t.history = s.history

/-- A whole well-formed frame leaves both accumulators zero, and the body with its first checksum byte leaves `[h, 0]`
(40_crc R128 b, f). -/
def Obligations.WholeFrameLeavesZero : Prop :=
  ∀ (b : List Byte) (l h : Byte), crc16 b = (l, h) →
    crc16 (b ++ [l]) = (h, 0x00) ∧ crc16 (b ++ [l, h]) = (0x00, 0x00)

/-- For each input byte the step is a bijection on the accumulator pair (40_crc R128 e). -/
def Obligations.CrcStepIsBijective : Prop :=
  ∀ w : Byte, Function.Bijective fun acc : Byte × Byte => crcStep acc w

/-- The predicate `valid(r)` (41_codec R147): exactly the sequences that are a body and then its checksum, low byte first;
so none of fewer than two bytes, and of two bytes FF FF alone. -/
def Obligations.ValidExactlyWithTheRightTrailer : Prop :=
  (∀ r : List Byte, validFrame r = true ↔
    2 ≤ r.length ∧ r.drop (r.length - 2) =
      [(crc16 (r.take (r.length - 2))).1, (crc16 (r.take (r.length - 2))).2]) ∧
  (∀ (b : List Byte) (l h : Byte), validFrame (b ++ [l, h]) = true ↔ crc16 b = (l, h)) ∧
  (∀ l h : Byte, validFrame [l, h] = true ↔ l = 0xFF ∧ h = 0xFF)

/-- Changing any one byte of the body of a valid frame makes it invalid (more than 40_crc R128 d says of one bit). -/
def Obligations.ChangedBodyByteIsDetected : Prop :=
  ∀ (b c : List Byte) (x y l h : Byte), x ≠ y →
    validFrame (b ++ [x] ++ c ++ [l, h]) = true → validFrame (b ++ [y] ++ c ++ [l, h]) = false

/-- A valid frame followed by any number of zero bytes is valid (40_crc R128 f, 70_reset_and_hazards R294). -/
def Obligations.TrailingZerosStayValid : Prop :=
  ∀ (r : List Byte) (k : Nat), validFrame r = true → validFrame (r ++ List.replicate k 0x00) = true

/-! ### The frame codec -/

/-- TX.CLR and RX.CLR (41_codec R140, R142). R140 names no write of TXIDX; that it goes to 0, the one value in its range
`0..TXLEN` then (10_state R38, R43), is deduced, log entry 12. Kept buffer bytes: log entry 6. -/
def Obligations.ClearsEmptyTheirBuffer : Prop :=
  ∀ s : State,
    exec .txClr s = .next (ended 0x01 0 { s with txlen := 0, txidx := 0 }) ∧
    exec .rxClr s = .next (ended 0x01 0 { s with rxlen := 0, paylen := 0 })

/-- TX.PUT (41_codec R141): DATA is appended to the request, or InvalidArgument when the buffer is full. -/
def Obligations.TxPutAppendsData : Prop :=
  ∀ s : State,
    (s.txlen.toNat < 8 →
      ∃ t, exec .txPut s = .next t ∧
        t = ended 0x01 0 { s with txbuf := s.txbuf.write s.txlen.toNat s.data, txlen := s.txlen + 1 } ∧
        (s.txbuf.wf → txBytes t = txBytes s ++ [s.data])) ∧
    (s.txlen.toNat = 8 → exec .txPut s = .next (ended 0x04 2 s))

/-- RX.PUT (41_codec R143): DATA is appended to the response and PAYLEN is 0, or InvalidArgument when the buffer is full. -/
def Obligations.RxPutAppendsData : Prop :=
  ∀ s : State,
    (s.rxlen.toNat < 1000 →
      ∃ t, exec .rxPut s = .next t ∧
        t = ended 0x01 0
          { s with rxbuf := s.rxbuf.write s.rxlen.toNat s.data, rxlen := s.rxlen + 1, paylen := 0 } ∧
        (s.rxbuf.wf → rxBytes t = rxBytes s ++ [s.data])) ∧
    (s.rxlen.toNat = 1000 → exec .rxPut s = .next (ended 0x04 2 s))

/-- BLD.RD (41_codec R145): on operands in range the eight bytes of REQ_RD are the request, the accumulators keep its
checksum, and nothing else changes; on any other operands InvalidArgument, and nothing else changes. -/
def Obligations.BldRdBuildsTheRequest : Prop :=
  ∀ (s : State) (body : List Byte),
    body = [BitVec.ofNat 8 s.argDev.toNat, 0x03, BitVec.ofNat 8 (s.argReg.toNat / 256),
      BitVec.ofNat 8 (s.argReg.toNat % 256), BitVec.ofNat 8 (s.argCnt.toNat / 256),
      BitVec.ofNat 8 (s.argCnt.toNat % 256)] →
    (s.argDev.toNat ≤ 255 ∧ s.argReg.toNat ≤ 65535 ∧ s.argCnt.toNat ≤ 65535 →
      ∃ t, exec .bldRd s = .next t ∧
        t = ended 0x01 0
          { s with
            txbuf := s.txbuf.writeAll 0 (body ++ [(crc16 body).1, (crc16 body).2]), txlen := 8
            crcLo := (crc16 body).1, crcHi := (crc16 body).2 } ∧
        (s.txbuf.wf → txBytes t = body ++ [(crc16 body).1, (crc16 body).2])) ∧
    (¬(s.argDev.toNat ≤ 255 ∧ s.argReg.toNat ≤ 65535 ∧ s.argCnt.toNat ≤ 65535) →
      exec .bldRd s = .next (ended 0x04 2 s))

/-- BLD.WC (41_codec R146): as BLD.RD, with the coil sentinel; ARG_CNT is not looked at. -/
def Obligations.BldWcBuildsTheRequest : Prop :=
  ∀ (s : State) (body : List Byte),
    body = [BitVec.ofNat 8 s.argDev.toNat, 0x05, BitVec.ofNat 8 (s.argReg.toNat / 256),
      BitVec.ofNat 8 (s.argReg.toNat % 256), if s.argCoil = 1 then 0xFF else 0x00, 0x00] →
    (s.argDev.toNat ≤ 255 ∧ s.argReg.toNat ≤ 65535 →
      ∃ t, exec .bldWc s = .next t ∧
        t = ended 0x01 0
          { s with
            txbuf := s.txbuf.writeAll 0 (body ++ [(crc16 body).1, (crc16 body).2]), txlen := 8
            crcLo := (crc16 body).1, crcHi := (crc16 body).2 } ∧
        (s.txbuf.wf → txBytes t = body ++ [(crc16 body).1, (crc16 body).2])) ∧
    (¬(s.argDev.toNat ≤ 255 ∧ s.argReg.toNat ≤ 65535) → exec .bldWc s = .next (ended 0x04 2 s))

/-- RDREGS and WRCOIL on an operand out of range raise InvalidArgument and do nothing else: the port is not opened, the
environment is asked nothing (41_codec R144, 60_exceptions R242); WRCOIL does not look at ARG_CNT. -/
def Obligations.OutOfRangeExchangesDoNothing : Prop :=
  ∀ s : State,
    (255 < s.argDev.toNat ∨ 65535 < s.argReg.toNat ∨ 65535 < s.argCnt.toNat →
      exec .rdregs s = .next (ended 0x04 2 s)) ∧
    (255 < s.argDev.toNat ∨ 65535 < s.argReg.toNat → exec .wrcoil s = .next (ended 0x04 2 s))

/-- The frame rows of the opcode table: the block builds the row's frame (R95, R96, R105; log entry 10). The operand
registers hold the frame's fields, the accumulators the checksum of its first six bytes, nothing else changes; and when the
row's own checksum bytes are right, the request is the frame. -/
def Obligations.FrameRowsBuildTheirFrame : Prop :=
  ∀ (i : Instr) (s : State), (encode i).length = 8 →
    ∃ t, exec i s = .next t ∧
      t = ended 0x01 0 (withRequest ((encode i).take 6) (withFrameOperands i s)) ∧
      (i.wellFormed = true → s.txbuf.wf → txBytes t = encode i)

/-- What BLD.RD and BLD.WC leave in TXBUF is a well-formed request frame that decodes to the operands (R94 to R99). -/
def Obligations.BuiltRequestsAreWellFormed : Prop :=
  ∀ s : State, s.txbuf.wf → s.argDev.toNat ≤ 255 → s.argReg.toNat ≤ 65535 →
    (s.argCnt.toNat ≤ 65535 →
      ∃ t i, exec .bldRd s = .next t ∧ decode (txBytes t) = .ok i ∧ i.wellFormed = true ∧
        i = .reqRd (s.argDev.setWidth 8) (s.argReg.setWidth 16) (s.argCnt.setWidth 16) t.crcLo t.crcHi) ∧
    (∃ t i, exec .bldWc s = .next t ∧ decode (txBytes t) = .ok i ∧ i.wellFormed = true ∧
      i = if s.argCoil = 1 then .reqWcOn (s.argDev.setWidth 8) (s.argReg.setWidth 16) t.crcLo t.crcHi
          else .reqWcOff (s.argDev.setWidth 8) (s.argReg.setWidth 16) t.crcLo t.crcHi)

/-- VALID (41_codec R148, R149): the trailer test on `RXBUF[0:RXLEN]`, the accumulators, the payload window. -/
def Obligations.ValidTestsTheTrailer : Prop :=
  ∀ (s : State) (r : List Byte), r = rxBytes s →
    (r.length < 2 → exec .valid s = .next (ended 0x20 5 { s with paylen := 0 })) ∧
    (∀ (b : List Byte) (x y : Byte), r = b ++ [x, y] →
      exec .valid s = .next
        (if (crc16 b).1 = x ∧ (crc16 b).2 = y then
          ended 0x01 0
            { s with
              crcLo := (crc16 b).1, crcHi := (crc16 b).2
              paylen := if 5 ≤ r.length then BitVec.ofNat 16 (r.length - 5) else 0 }
        else ended 0x20 5 { s with crcLo := (crc16 b).1, crcHi := (crc16 b).2, paylen := 0 }))

/-- ECHO (41_codec R150): equal length and equal bytes, or EchoMismatch; nothing else changes. -/
def Obligations.EchoComparesByteForByte : Prop :=
  ∀ s : State,
    ((s.rxlen = s.txlen ∧ ∀ i < s.txlen.toNat, s.rxbuf.read i = s.txbuf.read i) →
      exec .echo s = .next (ended 0x01 0 s)) ∧
    (¬(s.rxlen = s.txlen ∧ ∀ i < s.txlen.toNat, s.rxbuf.read i = s.txbuf.read i) →
      exec .echo s = .next (ended 0x40 6 s))

/-- Which bytes of the two buffers an instruction stores to, and that every other byte reads as before (20_memory R63;
the stored indices: 41_codec R141, R143, R145, R146, 42_transactor R176). -/
def Obligations.InstructionsStoreNowhereElse : Prop :=
  ∀ (i : Instr) (s t : State), resetQuiet s → exec i s = .next t →
    (∀ a, ¬storesTx i s a → t.txbuf.read a = s.txbuf.read a) ∧
    (∀ a, ¬storesRx i s a → t.rxbuf.read a = s.rxbuf.read a)

/-! ### The transactor, step by step -/

/-- Start (42_transactor R172), the environment's answer to `PortOpen` being the next one listed; a port that does not
exist fails without an answer being taken (20_memory R74). -/
def Obligations.StartStepOpensThePort : Prop :=
  ∀ (s : State) (c : ExchangeCmd),
    s.resetPin = [] → s.busy = true → s.running = some c → s.phase = .idle →
    (∀ rest, s.port.toNat < 2 → s.opens = .ok :: rest →
      step s = .next { s with rxlen := 0, paylen := 0, txidx := 0, opens := rest, conn := true, phase := .tx,
                              history := s.history ++ [.opened s.port] }) ∧
    (∀ rest, s.port.toNat < 2 → s.opens = .fail :: rest →
      step s = .next { s with rxlen := 0, paylen := 0, txidx := 0, opens := rest,
                              busy := false, running := none, result := 0x08, cause := 3 }) ∧
    (2 ≤ s.port.toNat →
      step s = .next { s with rxlen := 0, paylen := 0, txidx := 0,
                              busy := false, running := none, result := 0x08, cause := 3 })

/-- Transmit step and transmit fault (42_transactor R173, R174, R179). -/
def Obligations.TransmitStepSendsTheNextByte : Prop :=
  ∀ (s : State) (c : ExchangeCmd) (rest : List Answer),
    s.resetPin = [] → s.busy = true → s.running = some c → s.phase = .tx → s.txidx.toNat < s.txlen.toNat →
    (s.sends = .ok :: rest →
      step s = .next { s with sends := rest, txidx := s.txidx + 1,
                              history := s.history ++ [.sent s.port (s.txbuf.read s.txidx.toNat)] }) ∧
    (s.sends = .fail :: rest →
      step s = .next { s with sends := rest, conn := false, phase := .idle, history := s.history ++ [.closed s.port],
                              busy := false, running := none, result := 0x08, cause := 3 })

/-- Turnaround (42_transactor R175). -/
def Obligations.TurnaroundStartsListening : Prop :=
  ∀ (s : State) (c : ExchangeCmd),
    s.resetPin = [] → s.busy = true → s.running = some c → s.phase = .tx → s.txidx = s.txlen →
    step s = .next { s with phase := .rx }

/-- Receive step and receive fault (42_transactor R176, R178, R179). -/
def Obligations.ReceiveStepStoresTheByte : Prop :=
  ∀ (s : State) (c : ExchangeCmd) (rest : List LineEvent),
    s.resetPin = [] → s.busy = true → s.running = some c → s.phase = .rx → s.rxlen.toNat < 1000 →
    (∀ b, s.events = .byte b :: rest →
      step s = .next { s with events := rest, rxbuf := s.rxbuf.write s.rxlen.toNat b, rxlen := s.rxlen + 1,
                              history := s.history ++ [.received s.port b] }) ∧
    (s.events = .fault :: rest →
      step s = .next { s with events := rest, rxlen := 0, conn := false, phase := .idle,
                              history := s.history ++ [.closed s.port],
                              busy := false, running := none, result := 0x08, cause := 3 })

/-- End of the wait for XCHG (42_transactor R177, R179, R180): at the bound the environment is not asked. -/
def Obligations.WaitEndsAtBoundOrTimeout : Prop :=
  ∀ s : State,
    s.resetPin = [] → s.busy = true → s.running = some .xchg → s.phase = .rx →
    (s.rxlen.toNat = 1000 →
      step s = .next { s with conn := false, phase := .idle, history := s.history ++ [.closed s.port],
                              busy := false, running := none, result := 0x01, cause := 0 }) ∧
    (∀ rest, s.rxlen.toNat < 1000 → s.events = .timeout :: rest →
      step s = .next { s with events := rest, conn := false, phase := .idle, history := s.history ++ [.closed s.port],
                              busy := false, running := none,
                              result := if s.rxlen.toNat < 4 then 0x10 else 0x01,
                              cause := if s.rxlen.toNat < 4 then 4 else 0 })

/-- In a step of a running command (BUSY = 1) outside the receive phase nothing is taken from the line and RXBUF does not
change (42_transactor R186). -/
def Obligations.ReceiverIsOffOutsideRx : Prop :=
  ∀ s t : State, resetLevel s = false → s.busy = true → s.phase ≠ .rx → step s = .next t →
    t.rxbuf = s.rxbuf ∧ t.events = s.events ∧ (t.rxlen = s.rxlen ∨ t.rxlen = 0)

/-! ### The transactor's commands -/

/-- XCHG when the environment opens the port, takes the request and answers with the bytes `r` (42_transactor R180,
R184): the request went out in index order, the response is in RXBUF, and only its length is tested. -/
def Obligations.XchgReturnsTheResponse : Prop :=
  ∀ (s : State) (r : List Byte), atRest s → s.port.toNat < 2 → r.length ≤ 1000 →
    ∃ t, exec .xchg (withOutcome (.response r) s.txlen.toNat s) = .next t ∧
      (s.rxbuf.wf → rxBytes t = r) ∧
      sameWorld s t = sameWorld s
        (ended (if r.length < 4 then 0x10 else 0x01) (if r.length < 4 then 4 else 0)
          { s with
            rxbuf := s.rxbuf.writeAll 0 r, rxlen := BitVec.ofNat 16 r.length, paylen := 0, txidx := s.txlen
            history := s.history ++ [.opened s.port] ++ (txBytes s).map (.sent s.port) ++ r.map (.received s.port)
              ++ [.closed s.port] })

/-- RDREGS on operands in range when the environment answers with the bytes `r` (42_transactor R181): the request of
R145, then the length test, the checksum test and the payload window of `commandEnd`. -/
def Obligations.RdregsChecksTheResponse : Prop :=
  ∀ (s : State) (r : List Byte), atRest s → s.rxbuf.wf → operandsInRange .rdregs s → s.port.toNat < 2 → r.length ≤ 1000 →
    ∃ t, exec .rdregs (withOutcome (.response r) 8 s) = .next t ∧ rxBytes t = r ∧
      sameWorld s t = sameWorld s (commandEnd .rdregs
        (withRequest (readRequestBody s.argDev.toNat s.argReg.toNat s.argCnt.toNat) s) (.response r))

/-- WRCOIL on operands in range when the environment answers with the bytes `r` (42_transactor R182): the request of
R146, then the length, checksum and echo tests of `commandEnd`. -/
def Obligations.WrcoilChecksTheResponse : Prop :=
  ∀ (s : State) (r : List Byte), atRest s → s.rxbuf.wf → operandsInRange .wrcoil s → s.port.toNat < 2 → r.length ≤ 1000 →
    ∃ t, exec .wrcoil (withOutcome (.response r) 8 s) = .next t ∧ rxBytes t = r ∧
      sameWorld s t = sameWorld s (commandEnd .wrcoil
        (withRequest (coilRequestBody s.argDev.toNat s.argReg.toNat (s.argCoil == 1)) s) (.response r))

/-- RDREGS reports OK exactly when at least MIN_FRAME bytes came and their checksum matches (42_transactor R181). -/
def Obligations.RdregsOkExactlyOnAValidResponse : Prop :=
  ∀ (s : State) (r : List Byte), atRest s → s.rxbuf.wf → operandsInRange .rdregs s → s.port.toNat < 2 → r.length ≤ 1000 →
    ∃ t, exec .rdregs (withOutcome (.response r) 8 s) = .next t ∧
      (t.result.getLsbD 0 = true ↔ 4 ≤ r.length ∧ crc16 (r.take (r.length - 2)) = (r.getD (r.length - 2) 0, r.getD (r.length - 1) 0)) ∧
      (t.result.getLsbD 0 = false → t.paylen = 0)

/-- WRCOIL reports OK exactly when the response is byte-identical to the request (42_transactor R182). -/
def Obligations.WrcoilOkExactlyOnTheEcho : Prop :=
  ∀ (s : State) (r : List Byte), atRest s → s.rxbuf.wf → s.txbuf.wf → operandsInRange .wrcoil s → s.port.toNat < 2 →
    r.length ≤ 1000 →
    ∃ t, exec .wrcoil (withOutcome (.response r) 8 s) = .next t ∧
      (t.result.getLsbD 0 = true ↔
        r = sealed (coilRequestBody s.argDev.toNat s.argReg.toNat (s.argCoil == 1)))

/-- A fault of the line, whichever it is: TransportFault alone, RXLEN and PAYLEN 0, the request still in TXBUF, the port
released; the history holds what went over the line until then (60_exceptions R243, R249; 42_transactor R184). -/
def Obligations.TransportFaultReleasesThePort : Prop :=
  ∀ (c : ExchangeCmd) (s : State) (o : ExchangeOutcome),
    atRest s → operandsInRange c s → outcomePossible (requestReady c s) o → (∀ r, o ≠ .response r) →
    ∃ t, exec (exchangeInstr c) (withOutcome o (requestReady c s).txlen.toNat s) = .next t ∧
      sameWorld s t = sameWorld s (ended 0x08 3 (exchangeResult (requestReady c s) o)) ∧
      t.rxlen = 0 ∧ t.paylen = 0 ∧ atRest t

/-- `PORT >= NPORTS` names no port: the exchange fails whatever the environment would have answered, and asks it
nothing (42_transactor R172, 10_state R30). -/
def Obligations.MissingPortFailsUnasked : Prop :=
  ∀ (c : ExchangeCmd) (s : State), s.resetPin = [] → atRest s → operandsInRange c s → 2 ≤ s.port.toNat →
    exec (exchangeInstr c) s =
      .next (ended 0x08 3 { requestReady c s with rxlen := 0, paylen := 0, txidx := 0 })

/-- Whatever the environment does, a command's exchange is one of the four outcomes of 42_transactor R184. -/
def Obligations.EveryExchangeIsOneOfFourOutcomes : Prop :=
  ∀ (c : ExchangeCmd) (s : State), atRest s → s.rxbuf.wf → operandsInRange c s → resetQuiet s →
    ∃ o t, outcomePossible (requestReady c s) o ∧ exec (exchangeInstr c) s = .next t ∧
      sameWorld s t = sameWorld s (commandEnd c (requestReady c s) o)

/-- Every exchange ends, with the port released, whatever the environment answers and even if reset is asserted on the
way (42_transactor R179, R187). -/
def Obligations.EveryExchangeEndsReleased : Prop :=
  ∀ (c : ExchangeCmd) (s : State), atRest s → ∃ t, exec (exchangeInstr c) s = .next t ∧ atRest t

/-- A command with an exchange is the sequence of sequencer steps of 42_transactor R171: from the command's start, the
machine's own single steps reach the state that the command as a whole ends in, within the bound of R187. That `exec` runs
the command as a whole is the model's choice, log entry 1. -/
def Obligations.SingleStepsReachTheCommandsEnd : Prop :=
  ∀ (c : ExchangeCmd) (s t : State), atRest s → operandsInRange c s → exec (exchangeInstr c) s = .next t →
    ∃ n, n ≤ (requestReady c s).txlen.toNat + 1003 ∧
      Host.Core.run Sys2Proof.core n { requestReady c (beginCommand s) with running := some c } = .next t

/-! ### The whole machine -/

/-- The invariant holds after reset. -/
def Obligations.ResetSatisfiesTheInvariant : Prop := StateInv State.reset

/-- Every step of the machine keeps the invariant (10_state R43; the buffers' canonical form). -/
def Obligations.StepKeepsTheInvariant : Prop :=
  ∀ s t : State, StateInv s → step s = .next t → StateInv t

/-- Between commands the host reads STATUS = 0, and PAYLEN is 0 or RXLEN - 5 (10_state R33, R43). -/
def Obligations.StatusReadsZeroBetweenCommands : Prop :=
  ∀ s : State, StateInv s → s.busy = false →
    readRegister 1 s = some 0 ∧ (s.paylen = 0 ∨ s.paylen.toNat + 5 = s.rxlen.toNat)

/-! ### The host reference, outside the hardware -/

/-- The temperature decoder (48_host_reference R213): not flipped up to and at 8000, flipped from 8001; in hundredths. -/
def Obligations.TemperatureSignRecovery : Prop :=
  ∀ b0 b1 : Byte,
    (b0.toNat * 256 + b1.toNat ≤ 8000 →
      decodeReading [b0, b1] .temperature = some (.temperature (b0.toNat * 256 + b1.toNat))) ∧
    (8001 ≤ b0.toNat * 256 + b1.toNat →
      decodeReading [b0, b1] .temperature = some (.temperature ((b0.toNat * 256 + b1.toNat : Int) - 65536)))

/-- actuate_pump (48_host_reference R221): whatever became of the on command, the off command runs its exchange from the
state the on command left, the off frame is the block's last request, and the one boolean handed upward is formed from the
two echo results, in a way the source does not give (R223; free value, log entry 19). -/
def Obligations.PumpOffIsAttemptedAfterEveryOn : Prop :=
  ∀ (h : HostParams) (s : State), StateInv s → s.busy = false → resetQuiet s →
    h.pumpDev.toNat ≤ 255 → h.pumpCoil.toNat ≤ 65535 →
    ∃ (m : State) (onOutcome offOutcome : ExchangeOutcome),
      let a := { s with port := h.pumpPort, argDev := h.pumpDev, argReg := h.pumpCoil, argCoil := 1 }
      let b := { m with port := h.pumpPort, argDev := h.pumpDev, argReg := h.pumpCoil, argCoil := 0 }
      outcomePossible (requestReady .wrcoil a) onOutcome ∧
      sameWorld s m = sameWorld s (commandEnd .wrcoil (requestReady .wrcoil a) onOutcome) ∧
      outcomePossible (requestReady .wrcoil b) offOutcome ∧
      sameWorld s (actuatePump h s).2 = sameWorld s (commandEnd .wrcoil (requestReady .wrcoil b) offOutcome) ∧
      txBytes (actuatePump h s).2 = sealed (coilRequestBody h.pumpDev.toNat h.pumpCoil.toNat false) ∧
      (actuatePump h s).1 = Config.pumpOutcome (resultOk m) (resultOk (actuatePump h s).2)
end

