-- ==== Sys2Proof/Laws/Bits.lean ====
section
/-! SUPPORT. The laws of the bit fields: `hi8`, `lo8` and `be16` taken apart and put together again, and the slices of an
operand register as numbers. -/

namespace Sys2Proof.Machine

/-- A 16-bit field put together from its two bytes is that field. -/
@[simp] theorem ofBe16_bytes (v : Half) : ofBe16 (hi8 v) (lo8 v) = v := by
  unfold ofBe16 hi8 lo8
  ext i hi
  rw [← BitVec.getLsbD_eq_getElem, ← BitVec.getLsbD_eq_getElem, BitVec.getLsbD_append]
  by_cases h : i < 8
  · simp [h]
  · simp [h, show i - 8 < 8 by omega, show 8 + (i - 8) = i by omega]

/-- The high byte of a field put together from two bytes. -/
@[simp] theorem hi8_ofBe16 (a b : Byte) : hi8 (ofBe16 a b) = a := by
  unfold ofBe16 hi8
  ext i hi
  rw [← BitVec.getLsbD_eq_getElem, ← BitVec.getLsbD_eq_getElem]
  have := BitVec.getLsbD_append (x := a) (y := b) (i := 8 + i)
  simp only [show ¬ (8 + i < 8) by omega, if_false, show 8 + i - 8 = i by omega] at this
  simpa [hi] using this

/-- The low byte of a field put together from two bytes. -/
@[simp] theorem lo8_ofBe16 (a b : Byte) : lo8 (ofBe16 a b) = b := by
  unfold ofBe16 lo8
  ext i hi
  rw [← BitVec.getLsbD_eq_getElem, ← BitVec.getLsbD_eq_getElem]
  have := BitVec.getLsbD_append (x := a) (y := b) (i := i)
  simp only [hi, if_true] at this
  simpa [hi] using this

/-- A slice of an operand register as a number. -/
theorem byteOf_toNat (v : Word) (lo : Nat) : (byteOf v lo).toNat = v.toNat / 2 ^ lo % 256 := by
  simp [byteOf, BitVec.extractLsb'_toNat, Nat.shiftRight_eq_div_pow]

theorem byteOf_low (v : Word) : byteOf v 0 = BitVec.ofNat 8 v.toNat := by
  apply BitVec.eq_of_toNat_eq; simp [byteOf_toNat]

theorem byteOf_low_mod (v : Word) : byteOf v 0 = BitVec.ofNat 8 (v.toNat % 256) := by
  apply BitVec.eq_of_toNat_eq; simp [byteOf_toNat]

theorem byteOf_high (v : Word) : byteOf v 8 = BitVec.ofNat 8 (v.toNat / 256) := by
  apply BitVec.eq_of_toNat_eq; simp [byteOf_toNat]

/-- The two slices of an operand register are the two bytes of its low half. -/
theorem byteOf_high_setWidth (v : Word) : byteOf v 8 = hi8 (v.setWidth 16) := by
  apply BitVec.eq_of_toNat_eq
  simp [byteOf, hi8, BitVec.extractLsb'_toNat, Nat.shiftRight_eq_div_pow]; omega

theorem byteOf_low_setWidth (v : Word) : byteOf v 0 = lo8 (v.setWidth 16) := by
  apply BitVec.eq_of_toNat_eq
  simp [byteOf, lo8, BitVec.extractLsb'_toNat]

theorem byteOf_low_byte (v : Word) : byteOf v 0 = v.setWidth 8 := by
  apply BitVec.eq_of_toNat_eq
  simp [byteOf, BitVec.extractLsb'_toNat]

/-- Counting a length register up by one. -/
theorem ofNat_toNat_succ (x : Half) : BitVec.ofNat 16 (x.toNat + 1) = x + 1 := by
  apply BitVec.eq_of_toNat_eq; simp

theorem toNat_add_one {x : Half} (h : x.toNat < 65535) : (x + 1).toNat = x.toNat + 1 := by
  rw [BitVec.toNat_add]; simp; omega

theorem toNat_ofNat_half {n : Nat} (h : n < 65536) : (BitVec.ofNat 16 n).toNat = n := by
  rw [BitVec.toNat_ofNat]; exact Nat.mod_eq_of_lt h

/-- Where a word is found in the opcode map, it is one of its rows. -/
theorem lookup_mem {op : Byte} {i : Instr} :
    ∀ {rows : List (Byte × Instr)}, Decode.lookup op rows = some i → (op, i) ∈ rows
  | [], h => by cases h
  | (w, j) :: rows, h => by
    unfold Decode.lookup at h
    split at h
    · cases h; subst_vars; exact List.mem_cons_self
    · exact List.mem_cons_of_mem _ (lookup_mem h)

end Sys2Proof.Machine
end

