-- ==== Sys2Proof/Laws/Crc.lean ====
section
/-! SUPPORT. The small laws of the checksum functions (40_crc R122, R123). -/

namespace Sys2Proof.Machine

theorem crcRun_nil (acc : Byte × Byte) : crcRun acc [] = acc := rfl

theorem crcRun_cons (acc : Byte × Byte) (w : Byte) (d : List Byte) :
    crcRun acc (w :: d) = crcRun (crcStep acc w) d := rfl

theorem crcRun_append (acc : Byte × Byte) (d e : List Byte) : crcRun acc (d ++ e) = crcRun (crcRun acc d) e := by
  simp [crcRun, List.foldl_append]

/-- One more byte is one more step. -/
theorem crc16_append_one (d : List Byte) (w : Byte) : crc16 (d ++ [w]) = crcStep (crc16 d) w := by
  simp [crc16, crcRun, List.foldl_append]

@[simp] theorem crcTrailer_length (d : List Byte) : (crcTrailer d).length = 2 := rfl

/-- `T[0] = 0x0000`. -/
theorem crcEntry_zero : crcEntry 0#8 = 0#16 := by decide

/-- A step with the byte the low accumulator holds has index 0 (R128 f). -/
theorem crcStep_self (lo hi : Byte) : crcStep (lo, hi) lo = (hi, 0) := by
  simp [crcStep, crcEntry_zero, lo8, hi8]

/-- The high bytes of the table are distinct. -/
theorem crcEntry_hi_inj : ∀ i j : Byte, hi8 (crcEntry i) = hi8 (crcEntry j) → i = j := by
  have h : ((List.range 256).map fun i => hi8 (crcEntry (BitVec.ofNat 8 i))).Nodup := by decide +kernel
  intro i j e
  have hi : i.toNat < 256 := i.isLt
  have hj : j.toNat < 256 := j.isLt
  have key := List.nodup_iff_injective_getElem.1 h
  have := @key ⟨i.toNat, by simpa using hi⟩ ⟨j.toNat, by simpa using hj⟩ (by simpa using e)
  simpa [BitVec.toNat_inj] using this

/-- The validity predicate on a body and two more bytes (41_codec R147). -/
theorem validFrame_append (b : List Byte) (l h : Byte) :
    validFrame (b ++ [l, h]) = ((l, h) == crc16 b) := by
  have e : (crc16 b) = ((crc16 b).1, (crc16 b).2) := rfl
  simp [validFrame, crcTrailer]
  rw [Bool.eq_iff_iff]
  simp [Prod.ext_iff]

theorem validFrame_short {r : List Byte} (h : r.length < 2) : validFrame r = false := by
  simp [validFrame]; omega

end Sys2Proof.Machine
end

