-- ==== Sys2Proof/Laws/Memory.lean ====
section
/-! SUPPORT. The laws of a byte buffer: every operation keeps the canonical form and the index bound, a read after a write
gives the value written, and a write leaves every other index alone. -/

namespace Sys2Proof.Machine

namespace Memory

theorem wf_nil : Memory.wf [] := ⟨List.Pairwise.nil, by simp⟩

theorem wf_cons {k : Nat} {v : Byte} {m : Memory} :
    Memory.wf ((k, v) :: m) ↔ (∀ c ∈ m, k < c.1) ∧ v ≠ blank ∧ Memory.wf m := by
  simp only [Memory.wf, List.pairwise_cons, List.forall_mem_cons]; tauto

theorem wf_put {a : Nat} {b : Byte} {m : Memory} (h : Memory.wf m) (ha : ∀ c ∈ m, a < c.1) :
    Memory.wf (put a b m) := by
  unfold put
  split
  · exact h
  · exact wf_cons.2 ⟨ha, ‹_›, h⟩

theorem mem_put {a : Nat} {b : Byte} {m : Memory} {c : Host.Cell} (h : c ∈ put a b m) : c.1 = a ∨ c ∈ m := by
  unfold put at h
  split at h
  · exact .inr h
  · exact (List.mem_cons.1 h).imp (fun e => by simp [e]) id

/-- Where the cells of a written buffer come from. -/
theorem mem_write {a : Nat} {b : Byte} {c : Host.Cell} :
    ∀ {m : Memory}, c ∈ write m a b → c.1 = a ∨ c ∈ m
  | [], h => mem_put h
  | (k, v) :: m, h => by
    unfold write at h
    split at h
    · exact mem_put h
    · split at h
      · exact (mem_put h).imp id (List.mem_cons_of_mem _)
      · rcases List.mem_cons.1 h with e | h
        · exact .inr (e ▸ List.mem_cons_self)
        · exact (mem_write h).imp id (List.mem_cons_of_mem _)

/-- A write keeps the canonical form. -/
theorem wf_write {a : Nat} {b : Byte} : ∀ {m : Memory}, Memory.wf m → Memory.wf (write m a b)
  | [], _ => wf_put wf_nil (by simp)
  | (k, v) :: m, h => by
    obtain ⟨hk, hv, hm⟩ := wf_cons.1 h
    unfold write
    split
    · rename_i hak
      exact wf_put h (by
        intro c hc
        rcases List.mem_cons.1 hc with e | hc
        · simpa [e] using hak
        · exact lt_trans hak (hk c hc))
    · split
      · rename_i e
        exact wf_put hm (by simpa [e] using hk)
      · refine wf_cons.2 ⟨fun c hc => ?_, hv, wf_write hm⟩
        rcases mem_write hc with e | hc
        · omega
        · exact hk c hc

/-- A write at an index below a bound keeps every cell below it. -/
theorem write_inside {m : Memory} {a n : Nat} {b : Byte} (h : ∀ c ∈ m, c.1 < n) (ha : a < n) :
    ∀ c ∈ write m a b, c.1 < n := by
  intro c hc
  rcases mem_write hc with e | hc
  · omega
  · exact h c hc

theorem read_of_lt {m : Memory} {a : Nat} (h : ∀ c ∈ m, a < c.1) : read m a = blank := by
  induction m with
  | nil => rfl
  | cons c m ih =>
    have := h c (by simp)
    rw [read, if_neg (by omega)]
    exact ih fun d hd => h d (by simp [hd])

theorem read_put_same {a : Nat} {b : Byte} {m : Memory} (h : ∀ c ∈ m, a < c.1) : read (put a b m) a = b := by
  unfold put
  split
  · rw [read_of_lt h]; exact (‹b = blank›).symm
  · simp [read]

theorem read_put_ne {a x : Nat} {b : Byte} {m : Memory} (h : x ≠ a) : read (put a b m) x = read m x := by
  unfold put
  split
  · rfl
  · rw [read, if_neg (Ne.symm h)]

/-- A read after a write at the same index gives the byte written. -/
theorem read_write_same {a : Nat} {b : Byte} : ∀ {m : Memory}, Memory.wf m → read (write m a b) a = b
  | [], _ => read_put_same (by simp)
  | (k, v) :: m, h => by
    obtain ⟨hk, -, hm⟩ := wf_cons.1 h
    unfold write
    split
    · rename_i hak
      exact read_put_same (by
        intro c hc
        rcases List.mem_cons.1 hc with e | hc
        · simpa [e] using hak
        · exact lt_trans hak (hk c hc))
    · split
      · rename_i e
        exact read_put_same (by simpa [e] using hk)
      · rw [read, if_neg (by omega)]
        exact read_write_same hm

/-- A write leaves every other index alone. -/
theorem read_write_ne {a x : Nat} {b : Byte} (hx : x ≠ a) :
    ∀ {m : Memory}, read (write m a b) x = read m x
  | [] => read_put_ne hx
  | (k, v) :: m => by
    unfold write
    split
    · exact read_put_ne hx
    · split
      · rename_i e
        rw [read_put_ne hx]
        simp only [read, if_neg (show k ≠ x by omega)]
      · simp only [read]
        split
        · rfl
        · exact read_write_ne hx

theorem wf_writeAll : ∀ (bs : List Byte) {m : Memory} {a : Nat}, Memory.wf m → Memory.wf (writeAll m a bs)
  | [], _, _, h => h
  | _ :: bs, _, _, h => wf_writeAll bs (wf_write h)

theorem writeAll_inside : ∀ (bs : List Byte) {m : Memory} {a n : Nat},
    (∀ c ∈ m, c.1 < n) → a + bs.length ≤ n → ∀ c ∈ writeAll m a bs, c.1 < n
  | [], _, _, _, h, _ => h
  | b :: bs, m, a, n, h, hn => by
    rw [List.length_cons] at hn
    exact writeAll_inside bs (write_inside h (by omega)) (by omega)

/-- Writing a sequence leaves every index outside it alone. -/
theorem read_writeAll_outside : ∀ (bs : List Byte) {m : Memory} {a x : Nat},
    x < a ∨ a + bs.length ≤ x → read (writeAll m a bs) x = read m x
  | [], _, _, _, _ => rfl
  | b :: bs, m, a, x, h => by
    rw [List.length_cons] at h
    rw [writeAll, read_writeAll_outside bs (by omega), read_write_ne (by omega)]

/-- Reading a written sequence gives its bytes. -/
theorem read_writeAll_inside : ∀ (bs : List Byte) {m : Memory} {a i : Nat} (h : i < bs.length),
    Memory.wf m → read (writeAll m a bs) (a + i) = bs[i]
  | b :: bs, m, a, 0, _, hm => by
    rw [writeAll, read_writeAll_outside bs (by omega)]
    exact read_write_same hm
  | b :: bs, m, a, i + 1, h, hm => by
    rw [writeAll, show a + (i + 1) = a + 1 + i by omega,
      read_writeAll_inside bs (Nat.lt_of_succ_lt_succ h) (wf_write hm)]
    rfl

/-- A sequence and then one more byte. -/
theorem writeAll_append_one : ∀ (bs : List Byte) (m : Memory) (a : Nat) (b : Byte),
    writeAll m a (bs ++ [b]) = write (writeAll m a bs) (a + bs.length) b
  | [], _, _, _ => rfl
  | c :: bs, m, a, b => by
    rw [List.cons_append, writeAll, writeAll_append_one bs, writeAll, List.length_cons]
    congr 1; omega

@[simp] theorem slice_length (m : Memory) (n : Nat) : (slice m n).length = n := by simp [slice]

@[simp] theorem take_slice (m : Memory) (n : Nat) : (slice m n).take n = slice m n :=
  List.take_of_length_le (by simp)

theorem getElem_slice {m : Memory} {n i : Nat} (h : i < (slice m n).length) : (slice m n)[i] = read m i := by
  simp [slice]

theorem slice_succ (m : Memory) (n : Nat) : slice m (n + 1) = slice m n ++ [read m n] := by
  simp [slice, List.range_succ]

/-- A sequence written at index 0 is the buffer's first bytes. -/
theorem slice_writeAll {m : Memory} (bs : List Byte) (h : Memory.wf m) :
    slice (writeAll m 0 bs) bs.length = bs := by
  refine List.ext_getElem (by simp) fun i h₁ h₂ => ?_
  have := read_writeAll_inside (a := 0) bs h₂ h
  rw [Nat.zero_add] at this
  rw [getElem_slice, this]

/-- A buffer's first bytes written again at index 0 and read back. -/
theorem slice_congr {m m' : Memory} {n : Nat} (h : ∀ i < n, read m i = read m' i) : slice m n = slice m' n := by
  refine List.ext_getElem (by simp) fun i h₁ _ => ?_
  rw [getElem_slice, getElem_slice]
  exact h i (by simpa using h₁)

end Memory

end Sys2Proof.Machine
end

