-- ==== Sys2Proof/Laws/State.lean ====
section
/-! SUPPORT. The fields of the shared updates of State, one lemma for each field and update, true by rfl. -/

namespace Sys2Proof.Machine

variable (s : State)

/-! ### beginCommand -/

@[simp] theorem beginCommand_crcLo : (beginCommand s).crcLo = s.crcLo := rfl
@[simp] theorem beginCommand_crcHi : (beginCommand s).crcHi = s.crcHi := rfl
@[simp] theorem beginCommand_argDev : (beginCommand s).argDev = s.argDev := rfl
@[simp] theorem beginCommand_argReg : (beginCommand s).argReg = s.argReg := rfl
@[simp] theorem beginCommand_argCnt : (beginCommand s).argCnt = s.argCnt := rfl
@[simp] theorem beginCommand_argCoil : (beginCommand s).argCoil = s.argCoil := rfl
@[simp] theorem beginCommand_data : (beginCommand s).data = s.data := rfl
@[simp] theorem beginCommand_txbuf : (beginCommand s).txbuf = s.txbuf := rfl
@[simp] theorem beginCommand_txlen : (beginCommand s).txlen = s.txlen := rfl
@[simp] theorem beginCommand_rxbuf : (beginCommand s).rxbuf = s.rxbuf := rfl
@[simp] theorem beginCommand_rxlen : (beginCommand s).rxlen = s.rxlen := rfl
@[simp] theorem beginCommand_port : (beginCommand s).port = s.port := rfl
@[simp] theorem beginCommand_baud : (beginCommand s).baud = s.baud := rfl
@[simp] theorem beginCommand_result : (beginCommand s).result = 0 := rfl
@[simp] theorem beginCommand_cause : (beginCommand s).cause = 0 := rfl
@[simp] theorem beginCommand_paylen : (beginCommand s).paylen = s.paylen := rfl
@[simp] theorem beginCommand_idx : (beginCommand s).idx = s.idx := rfl
@[simp] theorem beginCommand_busy : (beginCommand s).busy = true := rfl
@[simp] theorem beginCommand_conn : (beginCommand s).conn = s.conn := rfl
@[simp] theorem beginCommand_phase : (beginCommand s).phase = s.phase := rfl
@[simp] theorem beginCommand_txidx : (beginCommand s).txidx = s.txidx := rfl
@[simp] theorem beginCommand_running : (beginCommand s).running = s.running := rfl
@[simp] theorem beginCommand_hostQueue : (beginCommand s).hostQueue = s.hostQueue := rfl
@[simp] theorem beginCommand_reads : (beginCommand s).reads = s.reads := rfl
@[simp] theorem beginCommand_opens : (beginCommand s).opens = s.opens := rfl
@[simp] theorem beginCommand_sends : (beginCommand s).sends = s.sends := rfl
@[simp] theorem beginCommand_events : (beginCommand s).events = s.events := rfl
@[simp] theorem beginCommand_tick : (beginCommand s).tick = s.tick + 1 := rfl
@[simp] theorem beginCommand_resetPin : (beginCommand s).resetPin = s.resetPin := rfl
@[simp] theorem beginCommand_history : (beginCommand s).history = s.history := rfl

/-! ### finishCommand -/

@[simp] theorem finishCommand_crcLo (ks : List ErrorKind) : (finishCommand ks s).crcLo = s.crcLo := rfl
@[simp] theorem finishCommand_crcHi (ks : List ErrorKind) : (finishCommand ks s).crcHi = s.crcHi := rfl
@[simp] theorem finishCommand_argDev (ks : List ErrorKind) : (finishCommand ks s).argDev = s.argDev := rfl
@[simp] theorem finishCommand_argReg (ks : List ErrorKind) : (finishCommand ks s).argReg = s.argReg := rfl
@[simp] theorem finishCommand_argCnt (ks : List ErrorKind) : (finishCommand ks s).argCnt = s.argCnt := rfl
@[simp] theorem finishCommand_argCoil (ks : List ErrorKind) : (finishCommand ks s).argCoil = s.argCoil := rfl
@[simp] theorem finishCommand_data (ks : List ErrorKind) : (finishCommand ks s).data = s.data := rfl
@[simp] theorem finishCommand_txbuf (ks : List ErrorKind) : (finishCommand ks s).txbuf = s.txbuf := rfl
@[simp] theorem finishCommand_txlen (ks : List ErrorKind) : (finishCommand ks s).txlen = s.txlen := rfl
@[simp] theorem finishCommand_rxbuf (ks : List ErrorKind) : (finishCommand ks s).rxbuf = s.rxbuf := rfl
@[simp] theorem finishCommand_rxlen (ks : List ErrorKind) : (finishCommand ks s).rxlen = s.rxlen := rfl
@[simp] theorem finishCommand_port (ks : List ErrorKind) : (finishCommand ks s).port = s.port := rfl
@[simp] theorem finishCommand_baud (ks : List ErrorKind) : (finishCommand ks s).baud = s.baud := rfl
@[simp] theorem finishCommand_result (ks : List ErrorKind) : (finishCommand ks s).result = resultOf ks := rfl
@[simp] theorem finishCommand_cause (ks : List ErrorKind) : (finishCommand ks s).cause = causeOf (resultOf ks) := rfl
@[simp] theorem finishCommand_paylen (ks : List ErrorKind) : (finishCommand ks s).paylen = s.paylen := rfl
@[simp] theorem finishCommand_idx (ks : List ErrorKind) : (finishCommand ks s).idx = s.idx := rfl
@[simp] theorem finishCommand_busy (ks : List ErrorKind) : (finishCommand ks s).busy = false := rfl
@[simp] theorem finishCommand_conn (ks : List ErrorKind) : (finishCommand ks s).conn = s.conn := rfl
@[simp] theorem finishCommand_phase (ks : List ErrorKind) : (finishCommand ks s).phase = s.phase := rfl
@[simp] theorem finishCommand_txidx (ks : List ErrorKind) : (finishCommand ks s).txidx = s.txidx := rfl
@[simp] theorem finishCommand_running (ks : List ErrorKind) : (finishCommand ks s).running = none := rfl
@[simp] theorem finishCommand_hostQueue (ks : List ErrorKind) : (finishCommand ks s).hostQueue = s.hostQueue := rfl
@[simp] theorem finishCommand_reads (ks : List ErrorKind) : (finishCommand ks s).reads = s.reads := rfl
@[simp] theorem finishCommand_opens (ks : List ErrorKind) : (finishCommand ks s).opens = s.opens := rfl
@[simp] theorem finishCommand_sends (ks : List ErrorKind) : (finishCommand ks s).sends = s.sends := rfl
@[simp] theorem finishCommand_events (ks : List ErrorKind) : (finishCommand ks s).events = s.events := rfl
@[simp] theorem finishCommand_tick (ks : List ErrorKind) : (finishCommand ks s).tick = s.tick := rfl
@[simp] theorem finishCommand_resetPin (ks : List ErrorKind) : (finishCommand ks s).resetPin = s.resetPin := rfl
@[simp] theorem finishCommand_history (ks : List ErrorKind) : (finishCommand ks s).history = s.history := rfl

/-! ### setCrc -/

@[simp] theorem setCrc_crcLo (a : Byte × Byte) : (setCrc a s).crcLo = a.1 := rfl
@[simp] theorem setCrc_crcHi (a : Byte × Byte) : (setCrc a s).crcHi = a.2 := rfl
@[simp] theorem setCrc_argDev (a : Byte × Byte) : (setCrc a s).argDev = s.argDev := rfl
@[simp] theorem setCrc_argReg (a : Byte × Byte) : (setCrc a s).argReg = s.argReg := rfl
@[simp] theorem setCrc_argCnt (a : Byte × Byte) : (setCrc a s).argCnt = s.argCnt := rfl
@[simp] theorem setCrc_argCoil (a : Byte × Byte) : (setCrc a s).argCoil = s.argCoil := rfl
@[simp] theorem setCrc_data (a : Byte × Byte) : (setCrc a s).data = s.data := rfl
@[simp] theorem setCrc_txbuf (a : Byte × Byte) : (setCrc a s).txbuf = s.txbuf := rfl
@[simp] theorem setCrc_txlen (a : Byte × Byte) : (setCrc a s).txlen = s.txlen := rfl
@[simp] theorem setCrc_rxbuf (a : Byte × Byte) : (setCrc a s).rxbuf = s.rxbuf := rfl
@[simp] theorem setCrc_rxlen (a : Byte × Byte) : (setCrc a s).rxlen = s.rxlen := rfl
@[simp] theorem setCrc_port (a : Byte × Byte) : (setCrc a s).port = s.port := rfl
@[simp] theorem setCrc_baud (a : Byte × Byte) : (setCrc a s).baud = s.baud := rfl
@[simp] theorem setCrc_result (a : Byte × Byte) : (setCrc a s).result = s.result := rfl
@[simp] theorem setCrc_cause (a : Byte × Byte) : (setCrc a s).cause = s.cause := rfl
@[simp] theorem setCrc_paylen (a : Byte × Byte) : (setCrc a s).paylen = s.paylen := rfl
@[simp] theorem setCrc_idx (a : Byte × Byte) : (setCrc a s).idx = s.idx := rfl
@[simp] theorem setCrc_busy (a : Byte × Byte) : (setCrc a s).busy = s.busy := rfl
@[simp] theorem setCrc_conn (a : Byte × Byte) : (setCrc a s).conn = s.conn := rfl
@[simp] theorem setCrc_phase (a : Byte × Byte) : (setCrc a s).phase = s.phase := rfl
@[simp] theorem setCrc_txidx (a : Byte × Byte) : (setCrc a s).txidx = s.txidx := rfl
@[simp] theorem setCrc_running (a : Byte × Byte) : (setCrc a s).running = s.running := rfl
@[simp] theorem setCrc_hostQueue (a : Byte × Byte) : (setCrc a s).hostQueue = s.hostQueue := rfl
@[simp] theorem setCrc_reads (a : Byte × Byte) : (setCrc a s).reads = s.reads := rfl
@[simp] theorem setCrc_opens (a : Byte × Byte) : (setCrc a s).opens = s.opens := rfl
@[simp] theorem setCrc_sends (a : Byte × Byte) : (setCrc a s).sends = s.sends := rfl
@[simp] theorem setCrc_events (a : Byte × Byte) : (setCrc a s).events = s.events := rfl
@[simp] theorem setCrc_tick (a : Byte × Byte) : (setCrc a s).tick = s.tick := rfl
@[simp] theorem setCrc_resetPin (a : Byte × Byte) : (setCrc a s).resetPin = s.resetPin := rfl
@[simp] theorem setCrc_history (a : Byte × Byte) : (setCrc a s).history = s.history := rfl

/-! ### appendTx -/

@[simp] theorem appendTx_crcLo (b : Byte) : (appendTx b s).crcLo = s.crcLo := rfl
@[simp] theorem appendTx_crcHi (b : Byte) : (appendTx b s).crcHi = s.crcHi := rfl
@[simp] theorem appendTx_argDev (b : Byte) : (appendTx b s).argDev = s.argDev := rfl
@[simp] theorem appendTx_argReg (b : Byte) : (appendTx b s).argReg = s.argReg := rfl
@[simp] theorem appendTx_argCnt (b : Byte) : (appendTx b s).argCnt = s.argCnt := rfl
@[simp] theorem appendTx_argCoil (b : Byte) : (appendTx b s).argCoil = s.argCoil := rfl
@[simp] theorem appendTx_data (b : Byte) : (appendTx b s).data = s.data := rfl
@[simp] theorem appendTx_txbuf (b : Byte) : (appendTx b s).txbuf = s.txbuf.write s.txlen.toNat b := rfl
@[simp] theorem appendTx_txlen (b : Byte) : (appendTx b s).txlen = BitVec.ofNat 16 (s.txlen.toNat + 1) := rfl
@[simp] theorem appendTx_rxbuf (b : Byte) : (appendTx b s).rxbuf = s.rxbuf := rfl
@[simp] theorem appendTx_rxlen (b : Byte) : (appendTx b s).rxlen = s.rxlen := rfl
@[simp] theorem appendTx_port (b : Byte) : (appendTx b s).port = s.port := rfl
@[simp] theorem appendTx_baud (b : Byte) : (appendTx b s).baud = s.baud := rfl
@[simp] theorem appendTx_result (b : Byte) : (appendTx b s).result = s.result := rfl
@[simp] theorem appendTx_cause (b : Byte) : (appendTx b s).cause = s.cause := rfl
@[simp] theorem appendTx_paylen (b : Byte) : (appendTx b s).paylen = s.paylen := rfl
@[simp] theorem appendTx_idx (b : Byte) : (appendTx b s).idx = s.idx := rfl
@[simp] theorem appendTx_busy (b : Byte) : (appendTx b s).busy = s.busy := rfl
@[simp] theorem appendTx_conn (b : Byte) : (appendTx b s).conn = s.conn := rfl
@[simp] theorem appendTx_phase (b : Byte) : (appendTx b s).phase = s.phase := rfl
@[simp] theorem appendTx_txidx (b : Byte) : (appendTx b s).txidx = s.txidx := rfl
@[simp] theorem appendTx_running (b : Byte) : (appendTx b s).running = s.running := rfl
@[simp] theorem appendTx_hostQueue (b : Byte) : (appendTx b s).hostQueue = s.hostQueue := rfl
@[simp] theorem appendTx_reads (b : Byte) : (appendTx b s).reads = s.reads := rfl
@[simp] theorem appendTx_opens (b : Byte) : (appendTx b s).opens = s.opens := rfl
@[simp] theorem appendTx_sends (b : Byte) : (appendTx b s).sends = s.sends := rfl
@[simp] theorem appendTx_events (b : Byte) : (appendTx b s).events = s.events := rfl
@[simp] theorem appendTx_tick (b : Byte) : (appendTx b s).tick = s.tick := rfl
@[simp] theorem appendTx_resetPin (b : Byte) : (appendTx b s).resetPin = s.resetPin := rfl
@[simp] theorem appendTx_history (b : Byte) : (appendTx b s).history = s.history := rfl

/-! ### appendRx -/

@[simp] theorem appendRx_crcLo (b : Byte) : (appendRx b s).crcLo = s.crcLo := rfl
@[simp] theorem appendRx_crcHi (b : Byte) : (appendRx b s).crcHi = s.crcHi := rfl
@[simp] theorem appendRx_argDev (b : Byte) : (appendRx b s).argDev = s.argDev := rfl
@[simp] theorem appendRx_argReg (b : Byte) : (appendRx b s).argReg = s.argReg := rfl
@[simp] theorem appendRx_argCnt (b : Byte) : (appendRx b s).argCnt = s.argCnt := rfl
@[simp] theorem appendRx_argCoil (b : Byte) : (appendRx b s).argCoil = s.argCoil := rfl
@[simp] theorem appendRx_data (b : Byte) : (appendRx b s).data = s.data := rfl
@[simp] theorem appendRx_txbuf (b : Byte) : (appendRx b s).txbuf = s.txbuf := rfl
@[simp] theorem appendRx_txlen (b : Byte) : (appendRx b s).txlen = s.txlen := rfl
@[simp] theorem appendRx_rxbuf (b : Byte) : (appendRx b s).rxbuf = s.rxbuf.write s.rxlen.toNat b := rfl
@[simp] theorem appendRx_rxlen (b : Byte) : (appendRx b s).rxlen = BitVec.ofNat 16 (s.rxlen.toNat + 1) := rfl
@[simp] theorem appendRx_port (b : Byte) : (appendRx b s).port = s.port := rfl
@[simp] theorem appendRx_baud (b : Byte) : (appendRx b s).baud = s.baud := rfl
@[simp] theorem appendRx_result (b : Byte) : (appendRx b s).result = s.result := rfl
@[simp] theorem appendRx_cause (b : Byte) : (appendRx b s).cause = s.cause := rfl
@[simp] theorem appendRx_paylen (b : Byte) : (appendRx b s).paylen = s.paylen := rfl
@[simp] theorem appendRx_idx (b : Byte) : (appendRx b s).idx = s.idx := rfl
@[simp] theorem appendRx_busy (b : Byte) : (appendRx b s).busy = s.busy := rfl
@[simp] theorem appendRx_conn (b : Byte) : (appendRx b s).conn = s.conn := rfl
@[simp] theorem appendRx_phase (b : Byte) : (appendRx b s).phase = s.phase := rfl
@[simp] theorem appendRx_txidx (b : Byte) : (appendRx b s).txidx = s.txidx := rfl
@[simp] theorem appendRx_running (b : Byte) : (appendRx b s).running = s.running := rfl
@[simp] theorem appendRx_hostQueue (b : Byte) : (appendRx b s).hostQueue = s.hostQueue := rfl
@[simp] theorem appendRx_reads (b : Byte) : (appendRx b s).reads = s.reads := rfl
@[simp] theorem appendRx_opens (b : Byte) : (appendRx b s).opens = s.opens := rfl
@[simp] theorem appendRx_sends (b : Byte) : (appendRx b s).sends = s.sends := rfl
@[simp] theorem appendRx_events (b : Byte) : (appendRx b s).events = s.events := rfl
@[simp] theorem appendRx_tick (b : Byte) : (appendRx b s).tick = s.tick := rfl
@[simp] theorem appendRx_resetPin (b : Byte) : (appendRx b s).resetPin = s.resetPin := rfl
@[simp] theorem appendRx_history (b : Byte) : (appendRx b s).history = s.history := rfl

/-! ### storeRequest -/

@[simp] theorem storeRequest_crcLo (body : List Byte) : (storeRequest body s).crcLo = (crc16 body).1 := rfl
@[simp] theorem storeRequest_crcHi (body : List Byte) : (storeRequest body s).crcHi = (crc16 body).2 := rfl
@[simp] theorem storeRequest_argDev (body : List Byte) : (storeRequest body s).argDev = s.argDev := rfl
@[simp] theorem storeRequest_argReg (body : List Byte) : (storeRequest body s).argReg = s.argReg := rfl
@[simp] theorem storeRequest_argCnt (body : List Byte) : (storeRequest body s).argCnt = s.argCnt := rfl
@[simp] theorem storeRequest_argCoil (body : List Byte) : (storeRequest body s).argCoil = s.argCoil := rfl
@[simp] theorem storeRequest_data (body : List Byte) : (storeRequest body s).data = s.data := rfl
@[simp] theorem storeRequest_txbuf (body : List Byte) : (storeRequest body s).txbuf = s.txbuf.writeAll 0 (body ++ crcTrailer body) := rfl
@[simp] theorem storeRequest_txlen (body : List Byte) : (storeRequest body s).txlen = 8 := rfl
@[simp] theorem storeRequest_rxbuf (body : List Byte) : (storeRequest body s).rxbuf = s.rxbuf := rfl
@[simp] theorem storeRequest_rxlen (body : List Byte) : (storeRequest body s).rxlen = s.rxlen := rfl
@[simp] theorem storeRequest_port (body : List Byte) : (storeRequest body s).port = s.port := rfl
@[simp] theorem storeRequest_baud (body : List Byte) : (storeRequest body s).baud = s.baud := rfl
@[simp] theorem storeRequest_result (body : List Byte) : (storeRequest body s).result = s.result := rfl
@[simp] theorem storeRequest_cause (body : List Byte) : (storeRequest body s).cause = s.cause := rfl
@[simp] theorem storeRequest_paylen (body : List Byte) : (storeRequest body s).paylen = s.paylen := rfl
@[simp] theorem storeRequest_idx (body : List Byte) : (storeRequest body s).idx = s.idx := rfl
@[simp] theorem storeRequest_busy (body : List Byte) : (storeRequest body s).busy = s.busy := rfl
@[simp] theorem storeRequest_conn (body : List Byte) : (storeRequest body s).conn = s.conn := rfl
@[simp] theorem storeRequest_phase (body : List Byte) : (storeRequest body s).phase = s.phase := rfl
@[simp] theorem storeRequest_txidx (body : List Byte) : (storeRequest body s).txidx = s.txidx := rfl
@[simp] theorem storeRequest_running (body : List Byte) : (storeRequest body s).running = s.running := rfl
@[simp] theorem storeRequest_hostQueue (body : List Byte) : (storeRequest body s).hostQueue = s.hostQueue := rfl
@[simp] theorem storeRequest_reads (body : List Byte) : (storeRequest body s).reads = s.reads := rfl
@[simp] theorem storeRequest_opens (body : List Byte) : (storeRequest body s).opens = s.opens := rfl
@[simp] theorem storeRequest_sends (body : List Byte) : (storeRequest body s).sends = s.sends := rfl
@[simp] theorem storeRequest_events (body : List Byte) : (storeRequest body s).events = s.events := rfl
@[simp] theorem storeRequest_tick (body : List Byte) : (storeRequest body s).tick = s.tick := rfl
@[simp] theorem storeRequest_resetPin (body : List Byte) : (storeRequest body s).resetPin = s.resetPin := rfl
@[simp] theorem storeRequest_history (body : List Byte) : (storeRequest body s).history = s.history := rfl

/-! ### releasePort -/

@[simp] theorem releasePort_crcLo : (releasePort s).crcLo = s.crcLo := rfl
@[simp] theorem releasePort_crcHi : (releasePort s).crcHi = s.crcHi := rfl
@[simp] theorem releasePort_argDev : (releasePort s).argDev = s.argDev := rfl
@[simp] theorem releasePort_argReg : (releasePort s).argReg = s.argReg := rfl
@[simp] theorem releasePort_argCnt : (releasePort s).argCnt = s.argCnt := rfl
@[simp] theorem releasePort_argCoil : (releasePort s).argCoil = s.argCoil := rfl
@[simp] theorem releasePort_data : (releasePort s).data = s.data := rfl
@[simp] theorem releasePort_txbuf : (releasePort s).txbuf = s.txbuf := rfl
@[simp] theorem releasePort_txlen : (releasePort s).txlen = s.txlen := rfl
@[simp] theorem releasePort_rxbuf : (releasePort s).rxbuf = s.rxbuf := rfl
@[simp] theorem releasePort_rxlen : (releasePort s).rxlen = s.rxlen := rfl
@[simp] theorem releasePort_port : (releasePort s).port = s.port := rfl
@[simp] theorem releasePort_baud : (releasePort s).baud = s.baud := rfl
@[simp] theorem releasePort_result : (releasePort s).result = s.result := rfl
@[simp] theorem releasePort_cause : (releasePort s).cause = s.cause := rfl
@[simp] theorem releasePort_paylen : (releasePort s).paylen = s.paylen := rfl
@[simp] theorem releasePort_idx : (releasePort s).idx = s.idx := rfl
@[simp] theorem releasePort_busy : (releasePort s).busy = s.busy := rfl
@[simp] theorem releasePort_conn : (releasePort s).conn = false := rfl
@[simp] theorem releasePort_phase : (releasePort s).phase = .idle := rfl
@[simp] theorem releasePort_txidx : (releasePort s).txidx = s.txidx := rfl
@[simp] theorem releasePort_running : (releasePort s).running = s.running := rfl
@[simp] theorem releasePort_hostQueue : (releasePort s).hostQueue = s.hostQueue := rfl
@[simp] theorem releasePort_reads : (releasePort s).reads = s.reads := rfl
@[simp] theorem releasePort_opens : (releasePort s).opens = s.opens := rfl
@[simp] theorem releasePort_sends : (releasePort s).sends = s.sends := rfl
@[simp] theorem releasePort_events : (releasePort s).events = s.events := rfl
@[simp] theorem releasePort_tick : (releasePort s).tick = s.tick := rfl
@[simp] theorem releasePort_resetPin : (releasePort s).resetPin = s.resetPin := rfl
@[simp] theorem releasePort_history : (releasePort s).history = s.history ++ [.closed s.port] := rfl

/-! ### ended -/

@[simp] theorem ended_crcLo (r : Byte) (c : BitVec 3) : (ended r c s).crcLo = s.crcLo := rfl
@[simp] theorem ended_crcHi (r : Byte) (c : BitVec 3) : (ended r c s).crcHi = s.crcHi := rfl
@[simp] theorem ended_argDev (r : Byte) (c : BitVec 3) : (ended r c s).argDev = s.argDev := rfl
@[simp] theorem ended_argReg (r : Byte) (c : BitVec 3) : (ended r c s).argReg = s.argReg := rfl
@[simp] theorem ended_argCnt (r : Byte) (c : BitVec 3) : (ended r c s).argCnt = s.argCnt := rfl
@[simp] theorem ended_argCoil (r : Byte) (c : BitVec 3) : (ended r c s).argCoil = s.argCoil := rfl
@[simp] theorem ended_data (r : Byte) (c : BitVec 3) : (ended r c s).data = s.data := rfl
@[simp] theorem ended_txbuf (r : Byte) (c : BitVec 3) : (ended r c s).txbuf = s.txbuf := rfl
@[simp] theorem ended_txlen (r : Byte) (c : BitVec 3) : (ended r c s).txlen = s.txlen := rfl
@[simp] theorem ended_rxbuf (r : Byte) (c : BitVec 3) : (ended r c s).rxbuf = s.rxbuf := rfl
@[simp] theorem ended_rxlen (r : Byte) (c : BitVec 3) : (ended r c s).rxlen = s.rxlen := rfl
@[simp] theorem ended_port (r : Byte) (c : BitVec 3) : (ended r c s).port = s.port := rfl
@[simp] theorem ended_baud (r : Byte) (c : BitVec 3) : (ended r c s).baud = s.baud := rfl
@[simp] theorem ended_result (r : Byte) (c : BitVec 3) : (ended r c s).result = r := rfl
@[simp] theorem ended_cause (r : Byte) (c : BitVec 3) : (ended r c s).cause = c := rfl
@[simp] theorem ended_paylen (r : Byte) (c : BitVec 3) : (ended r c s).paylen = s.paylen := rfl
@[simp] theorem ended_idx (r : Byte) (c : BitVec 3) : (ended r c s).idx = s.idx := rfl
@[simp] theorem ended_busy (r : Byte) (c : BitVec 3) : (ended r c s).busy = false := rfl
@[simp] theorem ended_conn (r : Byte) (c : BitVec 3) : (ended r c s).conn = s.conn := rfl
@[simp] theorem ended_phase (r : Byte) (c : BitVec 3) : (ended r c s).phase = s.phase := rfl
@[simp] theorem ended_txidx (r : Byte) (c : BitVec 3) : (ended r c s).txidx = s.txidx := rfl
@[simp] theorem ended_running (r : Byte) (c : BitVec 3) : (ended r c s).running = none := rfl
@[simp] theorem ended_hostQueue (r : Byte) (c : BitVec 3) : (ended r c s).hostQueue = s.hostQueue := rfl
@[simp] theorem ended_reads (r : Byte) (c : BitVec 3) : (ended r c s).reads = s.reads := rfl
@[simp] theorem ended_opens (r : Byte) (c : BitVec 3) : (ended r c s).opens = s.opens := rfl
@[simp] theorem ended_sends (r : Byte) (c : BitVec 3) : (ended r c s).sends = s.sends := rfl
@[simp] theorem ended_events (r : Byte) (c : BitVec 3) : (ended r c s).events = s.events := rfl
@[simp] theorem ended_tick (r : Byte) (c : BitVec 3) : (ended r c s).tick = s.tick + 1 := rfl
@[simp] theorem ended_resetPin (r : Byte) (c : BitVec 3) : (ended r c s).resetPin = s.resetPin := rfl
@[simp] theorem ended_history (r : Byte) (c : BitVec 3) : (ended r c s).history = s.history := rfl
/-! ### nextSample -/

@[simp] theorem nextSample_crcLo : (nextSample s).crcLo = s.crcLo := rfl
@[simp] theorem nextSample_crcHi : (nextSample s).crcHi = s.crcHi := rfl
@[simp] theorem nextSample_argDev : (nextSample s).argDev = s.argDev := rfl
@[simp] theorem nextSample_argReg : (nextSample s).argReg = s.argReg := rfl
@[simp] theorem nextSample_argCnt : (nextSample s).argCnt = s.argCnt := rfl
@[simp] theorem nextSample_argCoil : (nextSample s).argCoil = s.argCoil := rfl
@[simp] theorem nextSample_data : (nextSample s).data = s.data := rfl
@[simp] theorem nextSample_txbuf : (nextSample s).txbuf = s.txbuf := rfl
@[simp] theorem nextSample_txlen : (nextSample s).txlen = s.txlen := rfl
@[simp] theorem nextSample_rxbuf : (nextSample s).rxbuf = s.rxbuf := rfl
@[simp] theorem nextSample_rxlen : (nextSample s).rxlen = s.rxlen := rfl
@[simp] theorem nextSample_port : (nextSample s).port = s.port := rfl
@[simp] theorem nextSample_baud : (nextSample s).baud = s.baud := rfl
@[simp] theorem nextSample_result : (nextSample s).result = s.result := rfl
@[simp] theorem nextSample_cause : (nextSample s).cause = s.cause := rfl
@[simp] theorem nextSample_paylen : (nextSample s).paylen = s.paylen := rfl
@[simp] theorem nextSample_idx : (nextSample s).idx = s.idx := rfl
@[simp] theorem nextSample_busy : (nextSample s).busy = s.busy := rfl
@[simp] theorem nextSample_conn : (nextSample s).conn = s.conn := rfl
@[simp] theorem nextSample_phase : (nextSample s).phase = s.phase := rfl
@[simp] theorem nextSample_txidx : (nextSample s).txidx = s.txidx := rfl
@[simp] theorem nextSample_running : (nextSample s).running = s.running := rfl
@[simp] theorem nextSample_hostQueue : (nextSample s).hostQueue = s.hostQueue := rfl
@[simp] theorem nextSample_reads : (nextSample s).reads = s.reads := rfl
@[simp] theorem nextSample_opens : (nextSample s).opens = s.opens := rfl
@[simp] theorem nextSample_sends : (nextSample s).sends = s.sends := rfl
@[simp] theorem nextSample_events : (nextSample s).events = s.events := rfl
@[simp] theorem nextSample_tick : (nextSample s).tick = s.tick := rfl
@[simp] theorem nextSample_resetPin : (nextSample s).resetPin = s.resetPin.tail := rfl
@[simp] theorem nextSample_history : (nextSample s).history = s.history := rfl

end Sys2Proof.Machine
end

