-- ==== Sys2Proof/Laws/Ops.lean ====
section
/-! SUPPORT. What each shared operation can do, said once: the environment's questions, the command cycle, the checks of
a response. -/

namespace Sys2Proof.Machine

/-! ### The command cycle -/

/-- An atomic command that raised `ks` (60_exceptions R248). -/
theorem runAtomic_eq {body : State → List ErrorKind × State} {s t : State} {ks : List ErrorKind}
    (h : body (beginCommand s) = (ks, t)) : runAtomic body s = finishCommand ks t := by
  simp [runAtomic, h]

/-- What follows `beginCommand` in an atomic command and does not touch the counter or RESULT ends as `ended` says. -/
theorem finishCommand_eq_ended (ks : List ErrorKind) (s : State) :
    { finishCommand ks s with tick := s.tick + 1 } = ended (resultOf ks) (causeOf (resultOf ks)) s := rfl

/-- RESULT and CAUSE of each kind that ends a command (60_exceptions R241 to R243), and of success. -/
@[simp] theorem resultOf_nil : resultOf [] = 0x01#8 := rfl
@[simp] theorem resultOf_illegal : resultOf [.illegalCommand] = 0x02#8 := by decide
@[simp] theorem resultOf_argument : resultOf [.invalidArgument] = 0x04#8 := by decide
@[simp] theorem resultOf_transport : resultOf [.transportFault] = 0x08#8 := by decide
@[simp] theorem resultOf_timeout : resultOf [.timeoutEmpty] = 0x10#8 := by decide
@[simp] theorem resultOf_checksum : resultOf [.checksumMismatch] = 0x20#8 := by decide
@[simp] theorem resultOf_echo : resultOf [.echoMismatch] = 0x40#8 := by decide
@[simp] theorem causeOf_ok : causeOf 0x01#8 = 0 := by decide
@[simp] theorem causeOf_illegal : causeOf 0x02#8 = 1 := by decide
@[simp] theorem causeOf_argument : causeOf 0x04#8 = 2 := by decide
@[simp] theorem causeOf_transport : causeOf 0x08#8 = 3 := by decide
@[simp] theorem causeOf_timeout : causeOf 0x10#8 = 4 := by decide
@[simp] theorem causeOf_checksum : causeOf 0x20#8 = 5 := by decide
@[simp] theorem causeOf_echo : causeOf 0x40#8 = 6 := by decide

/-- The end of a command with RESULT and CAUSE computed. -/
theorem finishCommand_of {ks : List ErrorKind} {r : Byte} {c : BitVec 3} (hr : resultOf ks = r) (hc : causeOf r = c)
    (s : State) :
    finishCommand ks s = { s with busy := false, running := none, result := r, cause := c } := by
  subst hr; subst hc; rfl

theorem finishCommand_ok (s : State) :
    finishCommand [] s = { s with busy := false, running := none, result := 0x01, cause := 0 } :=
  finishCommand_of resultOf_nil causeOf_ok s

theorem finishCommand_argument (s : State) :
    finishCommand [.invalidArgument] s = { s with busy := false, running := none, result := 0x04, cause := 2 } :=
  finishCommand_of resultOf_argument causeOf_argument s

theorem finishCommand_transport (s : State) :
    finishCommand [.transportFault] s = { s with busy := false, running := none, result := 0x08, cause := 3 } :=
  finishCommand_of resultOf_transport causeOf_transport s

theorem illegalCommand_eq (s : State) : illegalCommand s = ended 2 1 s :=
  finishCommand_of resultOf_illegal causeOf_illegal (beginCommand s)

/-! ### The environment's questions -/

/-- A question about opening the port changes only the environment's side of the state. -/
theorem askOpen_state (s : State) : ∃ o k, (askOpen s).2 = { s with opens := o, tick := k } := by
  unfold askOpen
  split
  · exact ⟨s.opens, s.tick, rfl⟩
  · split
    · exact ⟨_, s.tick, rfl⟩
    · exact ⟨s.opens, _, rfl⟩

theorem askSend_state (b : Byte) (s : State) : ∃ o k, (askSend b s).2 = { s with sends := o, tick := k } := by
  unfold askSend
  split
  · exact ⟨_, s.tick, rfl⟩
  · exact ⟨s.sends, _, rfl⟩

theorem askEvent_state (s : State) : ∃ o k, (askEvent s).2 = { s with events := o, tick := k } := by
  unfold askEvent
  split
  · exact ⟨_, s.tick, rfl⟩
  · exact ⟨s.events, _, rfl⟩

/-- A port that does not exist cannot be opened (20_memory R74), and the environment is not asked. -/
theorem askOpen_noPort {s : State} (h : Config.nPorts ≤ s.port.toNat) : askOpen s = (.fail, s) := by
  rw [askOpen, if_pos h]

theorem askOpen_cons {s : State} {a : Answer} {rest : List Answer} (h : s.port.toNat < Config.nPorts)
    (ho : s.opens = a :: rest) : askOpen s = (a, { s with opens := rest }) := by
  rw [askOpen, if_neg (by omega), ho]

theorem askOpen_ok_port {s : State} (h : (askOpen s).1 = .ok) : s.port.toNat < Config.nPorts := by
  by_contra hp
  rw [askOpen_noPort (by omega)] at h
  cases h

theorem askSend_cons {s : State} {b : Byte} {a : Answer} {rest : List Answer} (ho : s.sends = a :: rest) :
    askSend b s = (a, { s with sends := rest }) := by
  rw [askSend, ho]

theorem askEvent_cons {s : State} {e : LineEvent} {rest : List LineEvent} (ho : s.events = e :: rest) :
    askEvent s = (e, { s with events := rest }) := by
  rw [askEvent, ho]

/-! ### The reset input -/

theorem resetLevel_quiet {s : State} (h : resetQuiet s) : resetLevel s = false := by
  unfold resetLevel
  cases hp : s.resetPin with
  | nil => rfl
  | cons a l => exact h a (by simp [hp])

theorem resetQuiet_nextSample {s : State} (h : resetQuiet s) : resetQuiet (nextSample s) :=
  fun l hl => h l (List.mem_of_mem_tail hl)

/-! ### The buffers -/

/-- The buffers after reset are in canonical form. -/
theorem reset_buffers_wf : State.reset.txbuf.wf ∧ State.reset.rxbuf.wf := ⟨Memory.wf_nil, Memory.wf_nil⟩


@[simp] theorem txBytes_length (s : State) : (txBytes s).length = s.txlen.toNat := by simp [txBytes]

@[simp] theorem rxBytes_length (s : State) : (rxBytes s).length = s.rxlen.toNat := by simp [rxBytes]

/-- The request just stored is what TXBUF holds. -/
theorem txBytes_storeRequest {body : List Byte} {s : State} (hw : s.txbuf.wf) (hl : body.length = 6) :
    txBytes (storeRequest body s) = body ++ crcTrailer body := by
  have h := Memory.slice_writeAll (body ++ crcTrailer body) hw
  rwa [List.length_append, hl] at h

/-- RXBUF after a response was written from index 0. -/
theorem rxBytes_writeAll {s : State} {r : List Byte} (hw : s.rxbuf.wf) (hr : r.length < 65536) :
    rxBytes { s with rxbuf := s.rxbuf.writeAll 0 r, rxlen := BitVec.ofNat 16 r.length } = r := by
  have e : (BitVec.ofNat 16 r.length).toNat = r.length := by
    rw [BitVec.toNat_ofNat]; exact Nat.mod_eq_of_lt hr
  unfold rxBytes
  rw [e]
  exact Memory.slice_writeAll r hw

/-! ### The checks of a response -/

/-- The checksum test changes the accumulators only. -/
theorem checkTrailer_state (s : State) :
    (checkTrailer s).2 = setCrc (checkedCrc (crcAcc s) (rxBytes s)) s := by
  unfold checkTrailer checkedCrc
  rw [rxBytes_length]
  split <;> rfl

/-- The checksum test succeeds exactly on a valid response (41_codec R147, R148). -/
theorem checkTrailer_ok (s : State) : (checkTrailer s).1 = validFrame (rxBytes s) := by
  unfold checkTrailer
  split
  · rename_i h
    exact (validFrame_short (by rw [rxBytes_length]; exact h)).symm
  · rfl

/-- The echo test is equality of the two byte sequences (41_codec R150). -/
theorem sameBytes_iff (s : State) : sameBytes s = true ↔ rxBytes s = txBytes s := by
  unfold sameBytes
  rw [Bool.and_eq_true, beq_iff_eq, beq_iff_eq]
  refine ⟨And.right, fun h => ⟨?_, h⟩⟩
  have := congrArg List.length h
  rw [rxBytes_length, txBytes_length] at this
  exact BitVec.eq_of_toNat_eq this

end Sys2Proof.Machine
end

