-- ==== Sys2Proof/Laws/Codec.lean ====
section
/-! SUPPORT. What the shared parts of the frame codec do: a byte appended to a buffer, the argument checks, the two request
bodies in terms of the operands as numbers, the builders' bodies. -/

namespace Sys2Proof.Machine

/-- One byte appended at the end of a buffer's contents. -/
theorem slice_write_end {m : Memory} {n : Nat} {b : Byte} (hm : m.wf) :
    Memory.slice (m.write n b) (n + 1) = m.slice n ++ [b] := by
  rw [Memory.slice_succ, Memory.read_write_same hm]
  congr 1
  exact Memory.slice_congr fun i hi => Memory.read_write_ne (by omega)

theorem argsOkRd_iff {dev reg cnt : Word} :
    argsOkRd dev reg cnt = true ↔ dev.toNat ≤ 255 ∧ reg.toNat ≤ 65535 ∧ cnt.toNat ≤ 65535 := by
  simp [argsOkRd, and_assoc]

theorem argsOkWc_iff {dev reg : Word} : argsOkWc dev reg = true ↔ dev.toNat ≤ 255 ∧ reg.toNat ≤ 65535 := by
  simp [argsOkWc]

/-- The slices of 41_codec R145 are the big-endian fields of 30_encoding R98. -/
theorem readBody_eq (dev reg cnt : Word) : readBody dev reg cnt = readRequestBody dev.toNat reg.toNat cnt.toNat := by
  simp only [readBody, readRequestBody, byteOf_low dev, byteOf_high, byteOf_low_mod]; rfl

/-- The slices of 41_codec R146 likewise. -/
theorem coilBody_eq (dev reg : Word) (v : BitVec 1) : coilBody dev reg v = coilRequestBody dev.toNat reg.toNat (v == 1) := by
  have h : v = 0 ∨ v = 1 := by revert v; decide
  simp only [coilBody, coilRequestBody, byteOf_low dev, byteOf_high, byteOf_low_mod]
  rcases h with rfl | rfl <;> rfl

theorem storeRequest_eq (body : List Byte) (s : State) : storeRequest body s = withRequest body s := rfl

theorem txBytes_withRequest {body : List Byte} {s : State} (hw : s.txbuf.wf) (hl : body.length = 6) :
    txBytes (withRequest body s) = sealed body := by
  have h := Memory.slice_writeAll (sealed body) hw
  rwa [show (sealed body).length = 8 by simp [sealed, hl]] at h

/-- BLD.RD's body on operands in range, and out of range (41_codec R144, R145). -/
theorem bldRdBody_ok {s : State} (h : operandsInRange .rdregs s) : bldRdBody s = ([], requestReady .rdregs s) := by
  rw [bldRdBody, if_pos (argsOkRd_iff.2 h), storeRequest_eq, readBody_eq]; rfl

theorem bldRdBody_bad {s : State} (h : ¬operandsInRange .rdregs s) : bldRdBody s = ([.invalidArgument], s) := by
  rw [bldRdBody, if_neg]; rwa [argsOkRd_iff]

/-- BLD.WC's body on operands in range, and out of range (41_codec R144, R146). -/
theorem bldWcBody_ok {s : State} (h : operandsInRange .wrcoil s) : bldWcBody s = ([], requestReady .wrcoil s) := by
  rw [bldWcBody, if_pos (argsOkWc_iff.2 h), storeRequest_eq, coilBody_eq]; rfl

theorem bldWcBody_bad {s : State} (h : ¬operandsInRange .wrcoil s) : bldWcBody s = ([.invalidArgument], s) := by
  rw [bldWcBody, if_neg]; rwa [argsOkWc_iff]

/-- BLD.RD's body on the fields of a frame row: they are in range, and the body is the frame's first six bytes. -/
theorem bldRdBody_frame (dev : Byte) (reg cnt : Half) (s : State) :
    bldRdBody (beginCommand (loadReadOperands dev reg cnt s)) =
     ([], storeRequest (requestBody dev fcRead reg cnt) (beginCommand (loadReadOperands dev reg cnt s))) := by
  have hb : readBody (dev.setWidth 32) (reg.setWidth 32) (cnt.setWidth 32) = requestBody dev fcRead reg cnt := by
    simp [readBody, requestBody, be16, byteOf_high_setWidth, byteOf_low_byte]
    refine ⟨?_, ?_⟩ <;> (apply BitVec.eq_of_toNat_eq; simp [lo8, BitVec.extractLsb'_toNat])
  rw [bldRdBody, if_pos]
  · exact congrArg (fun b => ([], storeRequest b _)) hb
  · show argsOkRd (dev.setWidth 32) (reg.setWidth 32) (cnt.setWidth 32) = true
    rw [argsOkRd_iff]
    have := dev.isLt; have := reg.isLt; have := cnt.isLt
    simp [BitVec.toNat_setWidth]; omega

/-- BLD.WC's body on the fields of a frame row. -/
theorem bldWcBody_frame (dev : Byte) (reg : Half) (v : BitVec 1) (s : State) :
    bldWcBody (beginCommand (loadCoilOperands dev reg v s)) =
     ([], storeRequest (requestBody dev fcWrite reg (coilValue v)) (beginCommand (loadCoilOperands dev reg v s))) := by
  have hb : coilBody (dev.setWidth 32) (reg.setWidth 32) v = requestBody dev fcWrite reg (coilValue v) := by
    simp [coilBody, requestBody, be16, byteOf_high_setWidth, byteOf_low_byte]
    (apply BitVec.eq_of_toNat_eq; simp [lo8, BitVec.extractLsb'_toNat])
  rw [bldWcBody, if_pos]
  · exact congrArg (fun b => ([], storeRequest b _)) hb
  · show argsOkWc (dev.setWidth 32) (reg.setWidth 32) = true
    rw [argsOkWc_iff]
    have := dev.isLt; have := reg.isLt
    simp [BitVec.toNat_setWidth]; omega

end Sys2Proof.Machine
end

