-- ==== Sys2Proof/Laws/Transactor.lean ====
section
/-! SUPPORT. What the sequencer can do in one step, and how its run to the end of a command unfolds. -/

namespace Sys2Proof.Machine

/-- Start (42_transactor R172): the port opens and PHASE is TX, or the command ends with TransportFault. -/
theorem exchangeStart_cases (s : State) :
    (∃ o k, s.port.toNat < Config.nPorts ∧
      exchangeStart s = { s with rxlen := 0, paylen := 0, txidx := 0, opens := o, tick := k, conn := true, phase := .tx,
                                 history := s.history ++ [.opened s.port] }) ∨
    (∃ o k, exchangeStart s = finishCommand [.transportFault]
      { s with rxlen := 0, paylen := 0, txidx := 0, opens := o, tick := k }) := by
  obtain ⟨o, k, e⟩ := askOpen_state { s with rxlen := 0, paylen := 0, txidx := 0 }
  unfold exchangeStart
  split <;> rename_i h <;> rw [h] at e <;> subst e
  · exact .inl ⟨o, k, by have := askOpen_ok_port (congrArg Prod.fst h); exact this, rfl⟩
  · exact .inr ⟨o, k, rfl⟩

/-- Transmit (R173, R174): the next request byte goes out, or the command ends with TransportFault, port released. -/
theorem exchangeTransmit_cases (s : State) :
    (∃ o k, exchangeTransmit s = { s with sends := o, tick := k, txidx := BitVec.ofNat 16 (s.txidx.toNat + 1),
                                          history := s.history ++ [.sent s.port (s.txbuf.read s.txidx.toNat)] }) ∨
    (∃ o k, exchangeTransmit s = finishCommand [.transportFault] (releasePort { s with sends := o, tick := k })) := by
  obtain ⟨o, k, e⟩ := askSend_state (s.txbuf.read s.txidx.toNat) s
  unfold exchangeTransmit
  split <;> rename_i h <;> rw [h] at e <;> subst e
  · exact .inl ⟨o, k, rfl⟩
  · exact .inr ⟨o, k, rfl⟩

/-- Receive (R176 to R178): a byte is stored below the bound, the wait ends, or a fault ends the command. -/
theorem exchangeReceive_cases (c : ExchangeCmd) (s : State) :
    (∃ o k b, s.rxlen.toNat < Config.rxMax ∧
      exchangeReceive c s = { appendRx b s with events := o, tick := k, history := s.history ++ [.received s.port b] }) ∨
    (∃ o k, exchangeReceive c s = endOfWait c { s with events := o, tick := k }) ∨
    (∃ o k, s.rxlen.toNat < Config.rxMax ∧ exchangeReceive c s =
      finishCommand [.transportFault] (releasePort { s with events := o, tick := k, rxlen := 0 })) := by
  obtain ⟨o, k, e⟩ := askEvent_state s
  unfold exchangeReceive
  split
  · exact .inr (.inl ⟨s.events, s.tick, rfl⟩)
  · rename_i hb
    split <;> rename_i h <;> rw [h] at e <;> subst e
    · exact .inl ⟨o, k, _, by omega, rfl⟩
    · exact .inr (.inl ⟨o, k, rfl⟩)
    · exact .inr (.inr ⟨o, k, by omega, rfl⟩)

/-- What a command does after its exchange changes the accumulators and PAYLEN only. -/
theorem afterExchange_state (c : ExchangeCmd) (s : State) :
    ∃ a n, (afterExchange c s).2 = { setCrc a s with paylen := n } ∧ (n = s.paylen ∨ n = 0 ∨
      n = BitVec.ofNat 16 (payloadLength s.rxlen.toNat)) := by
  cases c with
  | xchg => exact ⟨crcAcc s, s.paylen, rfl, .inl rfl⟩
  | rdregs =>
    refine ⟨checkedCrc (crcAcc s) (rxBytes s), if lengthKinds s ++ trailerKinds s = [] then
      BitVec.ofNat 16 (payloadLength s.rxlen.toNat) else 0, ?_, ?_⟩
    · simp only [afterExchange, afterRdregs, checkTrailer_state]
    · split
      · exact .inr (.inr rfl)
      · exact .inr (.inl rfl)
  | wrcoil =>
    refine ⟨checkedCrc (crcAcc s) (rxBytes s), 0, ?_, .inr (.inl rfl)⟩
    simp only [afterExchange, afterWrcoil, checkTrailer_state]

/-- What no step of the sequencer changes: the host's moves and reads, the registers the host writes, the request. -/
def hostSide (s : State) :=
  (s.hostQueue, s.reads, s.argDev, s.argReg, s.argCnt, s.argCoil, s.data, s.port, s.baud, s.idx, s.txbuf, s.txlen)

theorem endOfWait_hostSide (c : ExchangeCmd) (s : State) :
    hostSide (endOfWait c s) = hostSide s ∧ (endOfWait c s).resetPin = s.resetPin := by
  obtain ⟨a, n, e, -⟩ := afterExchange_state c (releasePort s)
  simp only [endOfWait, e]
  exact ⟨rfl, rfl⟩

/-- A sequencer step leaves the host's side and the reset input as they were. -/
theorem sequencerStep_hostSide (c : ExchangeCmd) (s : State) :
    hostSide (sequencerStep c s) = hostSide s ∧ (sequencerStep c s).resetPin = s.resetPin := by
  unfold sequencerStep
  split
  · rcases exchangeStart_cases s with ⟨o, k, _, e⟩ | ⟨o, k, e⟩ <;> rw [e] <;> exact ⟨rfl, rfl⟩
  · split
    · rcases exchangeTransmit_cases s with ⟨o, k, e⟩ | ⟨o, k, e⟩ <;> rw [e] <;> exact ⟨rfl, rfl⟩
    · exact ⟨rfl, rfl⟩
  · rcases exchangeReceive_cases c s with ⟨o, k, b, _, e⟩ | ⟨o, k, e⟩ | ⟨o, k, _, e⟩ <;> rw [e]
    · exact ⟨rfl, rfl⟩
    · exact endOfWait_hostSide c _
    · exact ⟨rfl, rfl⟩

theorem sequencerRun_zero (s : State) : sequencerRun 0 s = s := rfl

/-- A run goes on while BUSY = 1. -/
theorem sequencerRun_busy {n : Nat} {s : State} (h : s.busy = true) :
    sequencerRun (n + 1) s = sequencerRun n (sequencerTick s) := by
  rw [sequencerRun, if_pos h]

/-- A run stays where BUSY has fallen. -/
theorem sequencerRun_done {n : Nat} {s : State} (h : s.busy = false) : sequencerRun n s = s := by
  cases n with
  | zero => rfl
  | succ n => rw [sequencerRun, if_neg (by simp [h])]

/-- A tick with the reset input not asserted is one sequencer step of the running command. -/
theorem sequencerTick_quiet {c : ExchangeCmd} {s : State} (h : resetQuiet s) (hr : s.running = some c) :
    sequencerTick s = sequencerStep c (nextSample s) := by
  rw [sequencerTick, resetLevel_quiet h]
  simp [hr]

end Sys2Proof.Machine
end

