-- ==== Sys2Proof/Laws/Step.lean ====
section
/-! SUPPORT. What one step of the machine is: reset, the block's turn, or the host's next move. -/

namespace Sys2Proof.Machine

theorem step_reset {s : State} (h : resetLevel s = true) : step s = .next (applyReset (nextSample s)) := by
  rw [step, if_pos h]

theorem step_busy {s : State} {c : ExchangeCmd} (h : resetLevel s = false) (hb : s.busy = true)
    (hr : s.running = some c) : step s = .next (sequencerStep c (nextSample s)) := by
  simp [step, h, hb, busyTurn, hr]

theorem step_idle {s : State} (h : resetLevel s = false) (hb : s.busy = false) (hq : s.hostQueue = []) :
    step s = .next (nextSample s) := by
  simp [step, h, hb, hostTurn, hq]

theorem step_move {s : State} {m : HostMove} {q : List HostMove} (h : resetLevel s = false) (hb : s.busy = false)
    (hq : s.hostQueue = m :: q) : step s = hostMove m { s with hostQueue := q, resetPin := s.resetPin.tail } := by
  rw [step, if_neg (by simp [h]), if_neg (by simp [hb]), hostTurn]
  simp only [nextSample_hostQueue, hq]
  rfl

/-- A run of the machine goes on from the state a step answers. -/
theorem coreRun_next {s t : State} {n : Nat} (h : step s = .next t) :
    Host.Core.run Sys2Proof.core (n + 1) s = Host.Core.run Sys2Proof.core n t := by
  have run_succ : ∀ (M : Host.Core) (s t : M.State), M.step s = .next t → M.run (n + 1) s = M.run n t := by
    intro M s t h; rw [Host.Core.run, h]
  exact run_succ Sys2Proof.core s t h

/-- Everything a step that answers a next state can be. -/
theorem step_cases {s t : State} (h : step s = .next t) :
    (resetLevel s = true ∧ t = applyReset (nextSample s)) ∨
    (resetLevel s = false ∧ s.busy = true ∧ ∃ c, s.running = some c ∧ t = sequencerStep c (nextSample s)) ∨
    (resetLevel s = false ∧ s.busy = false ∧ s.hostQueue = [] ∧ t = nextSample s) ∨
    (resetLevel s = false ∧ s.busy = false ∧
      ∃ m q, s.hostQueue = m :: q ∧ hostMove m { s with hostQueue := q, resetPin := s.resetPin.tail } = .next t) := by
  rcases Bool.eq_false_or_eq_true (resetLevel s) with hl | hl
  · rw [step_reset hl] at h; cases h; exact .inl ⟨hl, rfl⟩
  rcases Bool.eq_false_or_eq_true s.busy with hb | hb
  · rcases hr : s.running with _ | c
    · simp [step, hl, hb, busyTurn, hr] at h
    · rw [step_busy hl hb hr] at h; cases h; exact .inr (.inl ⟨hl, hb, c, rfl, rfl⟩)
  · rcases hq : s.hostQueue with _ | ⟨m, q⟩
    · rw [step_idle hl hb hq] at h; cases h; exact .inr (.inr (.inl ⟨hl, hb, rfl, rfl⟩))
    · rw [step_move hl hb hq] at h; exact .inr (.inr (.inr ⟨hl, hb, m, q, rfl, h⟩))

end Sys2Proof.Machine
end

