-- ==== Sys2Proof/Laws/Exchange.lean ====
section
/-! SUPPORT. A whole exchange: its three phases run to their ends, for whatever the environment answers and for answers
listed beforehand; and that it ends within its bound. -/

namespace Sys2Proof.Machine

/-! ### Single ticks -/

/-- Which step of the sequencer the phase selects (42_transactor R172, R173, R175, R176). -/
theorem sequencerStep_idle {c : ExchangeCmd} {s : State} (h : s.phase = .idle) : sequencerStep c s = exchangeStart s := by
  simp only [sequencerStep, h]

theorem sequencerStep_transmit {c : ExchangeCmd} {s : State} (h : s.phase = .tx) (hi : s.txidx.toNat < s.txlen.toNat) :
    sequencerStep c s = exchangeTransmit s := by
  simp only [sequencerStep, h, if_pos hi]

theorem sequencerStep_turnaround {c : ExchangeCmd} {s : State} (h : s.phase = .tx)
    (hi : ¬s.txidx.toNat < s.txlen.toNat) : sequencerStep c s = exchangeTurnaround s := by
  simp only [sequencerStep, h, if_neg hi]

theorem sequencerStep_receive {c : ExchangeCmd} {s : State} (h : s.phase = .rx) :
    sequencerStep c s = exchangeReceive c s := by
  simp only [sequencerStep, h]

/-- Transmit with the environment's answer listed. -/
theorem exchangeTransmit_ok {s : State} {rest : List Answer} (h : s.sends = .ok :: rest) :
    exchangeTransmit s =
      { s with sends := rest, txidx := BitVec.ofNat 16 (s.txidx.toNat + 1)
               history := s.history ++ [.sent s.port (s.txbuf.read s.txidx.toNat)] } := by
  rw [exchangeTransmit, askSend_cons h]

theorem exchangeTransmit_fail {s : State} {rest : List Answer} (h : s.sends = .fail :: rest) :
    exchangeTransmit s = finishCommand [.transportFault] (releasePort { s with sends := rest }) := by
  rw [exchangeTransmit, askSend_cons h]

/-- Receive with the environment's answer listed, and at the bound. -/
theorem exchangeReceive_byte {c : ExchangeCmd} {s : State} {b : Byte} {rest : List LineEvent}
    (hl : s.rxlen.toNat < 1000) (h : s.events = .byte b :: rest) :
    exchangeReceive c s =
      { appendRx b s with events := rest, history := s.history ++ [.received s.port b] } := by
  rw [exchangeReceive, if_neg (by show ¬1000 ≤ s.rxlen.toNat; omega), askEvent_cons h]; rfl

theorem exchangeReceive_timeout {c : ExchangeCmd} {s : State} {rest : List LineEvent}
    (hl : s.rxlen.toNat < 1000) (h : s.events = .timeout :: rest) :
    exchangeReceive c s = endOfWait c { s with events := rest } := by
  rw [exchangeReceive, if_neg (by show ¬1000 ≤ s.rxlen.toNat; omega), askEvent_cons h]

theorem exchangeReceive_fault {c : ExchangeCmd} {s : State} {rest : List LineEvent}
    (hl : s.rxlen.toNat < 1000) (h : s.events = .fault :: rest) :
    exchangeReceive c s = finishCommand [.transportFault] (releasePort { s with events := rest, rxlen := 0 }) := by
  rw [exchangeReceive, if_neg (by show ¬1000 ≤ s.rxlen.toNat; omega), askEvent_cons h]

theorem exchangeReceive_full {c : ExchangeCmd} {s : State} (hl : 1000 ≤ s.rxlen.toNat) :
    exchangeReceive c s = endOfWait c s := if_pos hl

/-- Start with the environment's answer listed, and with no port. -/
theorem exchangeStart_ok {s : State} {rest : List Answer} (hp : s.port.toNat < 2) (h : s.opens = .ok :: rest) :
    exchangeStart s =
      { s with rxlen := 0, paylen := 0, txidx := 0, opens := rest, conn := true, phase := .tx
               history := s.history ++ [.opened s.port] } := by
  rw [exchangeStart, askOpen_cons (s := { s with rxlen := 0, paylen := 0, txidx := 0 }) hp h]

theorem exchangeStart_fail {s : State} {rest : List Answer} (hp : s.port.toNat < 2) (h : s.opens = .fail :: rest) :
    exchangeStart s =
      finishCommand [.transportFault] { s with rxlen := 0, paylen := 0, txidx := 0, opens := rest } := by
  rw [exchangeStart, askOpen_cons (s := { s with rxlen := 0, paylen := 0, txidx := 0 }) hp h]

theorem exchangeStart_noPort {s : State} (hp : 2 ≤ s.port.toNat) :
    exchangeStart s = finishCommand [.transportFault] { s with rxlen := 0, paylen := 0, txidx := 0 } := by
  rw [exchangeStart, askOpen_noPort (s := { s with rxlen := 0, paylen := 0, txidx := 0 }) hp]

/-- An exchange under way between two sequencer steps: BUSY, and the command recorded. -/
def underWay (s : State) : Prop := s.busy = true ∧ s.running.isSome

/-- What a tick leaves: still under way, or the command has ended. -/
theorem sequencerTick_underWay {s : State} (h : underWay s) :
    (sequencerTick s).busy = false ∨ underWay (sequencerTick s) := by
  obtain ⟨hb, hr⟩ := h
  obtain ⟨c, hc⟩ := Option.isSome_iff_exists.1 hr
  have keep : (nextSample s).busy = true ∧ (nextSample s).running.isSome := ⟨hb, hr⟩
  unfold sequencerTick
  split
  · exact .inl rfl
  · rw [hc]
    simp only [sequencerStep]
    split
    · rcases exchangeStart_cases (nextSample s) with ⟨o, k, _, e⟩ | ⟨o, k, e⟩ <;> rw [e]
      · exact .inr keep
      · exact .inl rfl
    · split
      · rcases exchangeTransmit_cases (nextSample s) with ⟨o, k, e⟩ | ⟨o, k, e⟩ <;> rw [e]
        · exact .inr keep
        · exact .inl rfl
      · exact .inr keep
    · rcases exchangeReceive_cases c (nextSample s) with ⟨o, k, b, _, e⟩ | ⟨o, k, e⟩ | ⟨o, k, _, e⟩ <;> rw [e]
      · exact .inr keep
      · exact .inl rfl
      · exact .inl rfl

/-- A tick under way is a step of the machine. -/
theorem step_underWay {s : State} (h : underWay s) : step s = .next (sequencerTick s) := by
  obtain ⟨c, hc⟩ := Option.isSome_iff_exists.1 h.2
  unfold sequencerTick
  rcases Bool.eq_false_or_eq_true (resetLevel s) with hl | hl
  · rw [if_pos hl, step_reset hl]
  · rw [if_neg (by simp [hl]), step_busy hl h.1 hc, hc]

/-- The machine's single steps reach the state a run of the sequencer ends in. -/
theorem coreRun_sequencerRun : ∀ (n : Nat) (s : State), (s.busy = false ∨ underWay s) →
    ∃ m, m ≤ n ∧ Host.Core.run Sys2Proof.core m s = .next (sequencerRun n s)
  | 0, s, _ => ⟨0, le_refl _, rfl⟩
  | n + 1, s, .inl h => ⟨0, Nat.zero_le _, by rw [sequencerRun_done h]; rfl⟩
  | n + 1, s, .inr h => by
    obtain ⟨m, hm, e⟩ := coreRun_sequencerRun n (sequencerTick s) (sequencerTick_underWay h)
    exact ⟨m + 1, by omega, by rw [coreRun_next (step_underWay h), e, sequencerRun_busy h.1]⟩

/-! ### The end of an exchange -/

/-- How many more ticks the exchange under way can take (42_transactor R187). -/
def ticksLeft (s : State) : Nat :=
  match s.phase with
  | .idle => s.txlen.toNat + 1003
  | .tx => (s.txlen.toNat - s.txidx.toNat) + 1002
  | .rx => (1000 - s.rxlen.toNat) + 1

theorem ticksLeft_le (s : State) : s.phase = .rx → ticksLeft s ≤ 1001 := by
  intro h; simp only [ticksLeft, h]; omega

/-- A tick under way that does not end the command brings its end nearer. -/
theorem ticksLeft_sequencerTick {s : State} (h : underWay s) :
    (sequencerTick s).busy = false ∨ (underWay (sequencerTick s) ∧ ticksLeft (sequencerTick s) < ticksLeft s) := by
  rcases sequencerTick_underWay h with hd | hu
  · exact .inl hd
  · obtain ⟨c, hc⟩ := Option.isSome_iff_exists.1 h.2
    by_cases hd : (sequencerTick s).busy = false
    · exact .inl hd
    refine .inr ⟨hu, ?_⟩
    revert hd
    unfold sequencerTick
    split
    · intro hd; exact absurd rfl hd
    · rw [hc]
      simp only [sequencerStep]
      split <;> rename_i hp <;> rw [nextSample_phase] at hp
      · rcases exchangeStart_cases (nextSample s) with ⟨o, k, _, e⟩ | ⟨o, k, e⟩ <;> rw [e] <;> intro hd
        · simp [ticksLeft, hp]
        · exact absurd rfl hd
      · split <;> rename_i hi
        · rw [nextSample_txidx, nextSample_txlen] at hi
          rcases exchangeTransmit_cases (nextSample s) with ⟨o, k, e⟩ | ⟨o, k, e⟩ <;> rw [e] <;> intro hd
          · have hx := s.txlen.isLt
            simp [ticksLeft, hp]; omega
          · exact absurd rfl hd
        · intro _
          have e1 : ticksLeft s = (s.txlen.toNat - s.txidx.toNat) + 1002 := by simp only [ticksLeft, hp]
          have := ticksLeft_le (exchangeTurnaround (nextSample s)) rfl
          omega
      · rcases exchangeReceive_cases c (nextSample s) with ⟨o, k, b, hb, e⟩ | ⟨o, k, e⟩ | ⟨o, k, _, e⟩ <;> rw [e] <;>
          intro hd
        · rw [nextSample_rxlen] at hb
          have hb' : s.rxlen.toNat < 1000 := hb
          simp [ticksLeft, hp, appendRx]; omega
        · exact absurd rfl hd
        · exact absurd rfl hd

/-- With enough ticks an exchange under way ends. -/
theorem sequencerRun_ends : ∀ (n : Nat) (s : State), (s.busy = false ∨ (underWay s ∧ ticksLeft s ≤ n)) →
    (sequencerRun n s).busy = false
  | n, s, .inl h => by rw [sequencerRun_done h]; exact h
  | 0, s, .inr ⟨_, h⟩ => by
    exfalso; revert h; unfold ticksLeft; split <;> omega
  | n + 1, s, .inr ⟨h, hn⟩ => by
    rw [sequencerRun_busy h.1]
    refine sequencerRun_ends n _ ((ticksLeft_sequencerTick h).imp id fun ⟨hu, hl⟩ => ⟨hu, by omega⟩)

/-- What every tick keeps, a run keeps. -/
theorem sequencerRun_induction {P : State → Prop} (hstep : ∀ s, s.busy = true → P s → P (sequencerTick s)) :
    ∀ (n : Nat) (s : State), P s → P (sequencerRun n s)
  | 0, _, h => h
  | n + 1, s, h => by
    rcases Bool.eq_false_or_eq_true s.busy with hb | hb
    · rw [sequencerRun_busy hb]; exact sequencerRun_induction hstep n _ (hstep s hb h)
    · rw [sequencerRun_done hb]; exact h

/-! ### The three phases, for whatever the environment answers -/

/-- `s` after the bytes `r` were received. -/
def received (r : List Byte) (s : State) : State :=
  { s with
    rxbuf := s.rxbuf.writeAll s.rxlen.toNat r, rxlen := BitVec.ofNat 16 (s.rxlen.toNat + r.length)
    history := s.history ++ r.map (.received s.port) }

/-- `s` after the request bytes from `TXIDX` up to index `j` were sent. -/
def sentUpTo (j : Nat) (s : State) : State :=
  { s with
    txidx := BitVec.ofNat 16 j
    history := s.history ++ (((txBytes s).take j).drop s.txidx.toNat).map (.sent s.port) }

theorem received_nil (s : State) : received [] s = s := by
  simp [received, Memory.writeAll]

theorem received_cons (b : Byte) (r : List Byte) (s : State) (h : s.rxlen.toNat < 1000) :
    received (b :: r) s =
      received r { appendRx b s with history := s.history ++ [.received s.port b] } := by
  have e : (BitVec.ofNat 16 (s.rxlen.toNat + 1)).toNat = s.rxlen.toNat + 1 := toNat_ofNat_half (by omega)
  simp only [received, appendRx, e, Memory.writeAll, List.length_cons, List.map_cons, List.append_assoc,
    List.singleton_append]
  congr 2
  omega

theorem sentUpTo_self (s : State) : sentUpTo s.txidx.toNat s = s := by
  have : ((txBytes s).take s.txidx.toNat).drop s.txidx.toNat = [] := by
    rw [List.drop_eq_nil_iff]; simp
  simp [sentUpTo, this]

theorem sentUpTo_succ (j : Nat) (s : State) (h : s.txidx.toNat < j) (hj : j ≤ s.txlen.toNat) :
    sentUpTo j s =
      sentUpTo j { s with
        txidx := BitVec.ofNat 16 (s.txidx.toNat + 1)
        history := s.history ++ [.sent s.port (s.txbuf.read s.txidx.toNat)] } := by
  have hx := s.txlen.isLt
  have e : (BitVec.ofNat 16 (s.txidx.toNat + 1)).toNat = s.txidx.toNat + 1 := toNat_ofNat_half (by omega)
  have hlen : s.txidx.toNat < ((txBytes s).take j).length := by simp; omega
  have hget : ((txBytes s).take j)[s.txidx.toNat] = s.txbuf.read s.txidx.toNat := by
    rw [List.getElem_take]; exact Memory.getElem_slice _
  have hd := List.drop_eq_getElem_cons hlen
  rw [hget] at hd
  simp only [sentUpTo, e, hd, List.map_cons, List.append_assoc, List.singleton_append]
  rfl

/-- The receive phase (R176 to R178): bytes, and then the end of the wait or a fault. -/
theorem receive_phase (c : ExchangeCmd) : ∀ (n : Nat) (s : State), s.busy = true → s.running = some c → s.phase = .rx →
    resetQuiet s → s.rxlen.toNat ≤ 1000 → ticksLeft s ≤ n →
    ∃ (r : List Byte) (w : State),
      (s.rxlen.toNat + r.length ≤ 1000 ∧ sequencerRun n s = endOfWait c (sameWorld w (received r s))) ∨
      (s.rxlen.toNat + r.length < 1000 ∧ sequencerRun n s =
        finishCommand [.transportFault] (releasePort { sameWorld w (received r s) with rxlen := 0 }))
  | 0, s, _, _, hp, _, _, hn => by simp only [ticksLeft, hp] at hn; omega
  | n + 1, s, hb, hr, hp, hq, hl, hn => by
    rw [sequencerRun_busy hb, sequencerTick_quiet hq hr]
    rw [sequencerStep_receive (by exact hp)]
    rcases exchangeReceive_cases c (nextSample s) with ⟨o, k, b, hlt, e⟩ | ⟨o, k, e⟩ | ⟨o, k, hlt, e⟩ <;> rw [e]
    · have hlt' : s.rxlen.toNat < 1000 := hlt
      let t : State := { appendRx b s with history := s.history ++ [.received s.port b] }
      have el : (BitVec.ofNat 16 (s.rxlen.toNat + 1)).toNat = s.rxlen.toNat + 1 := toNat_ofNat_half (by omega)
      obtain ⟨r, w, ih⟩ := receive_phase c n
        { appendRx b (nextSample s) with events := o, tick := k,
                                         history := (nextSample s).history ++ [.received (nextSample s).port b] }
        hb hr hp (resetQuiet_nextSample hq) (by show (BitVec.ofNat 16 (s.rxlen.toNat + 1)).toNat ≤ 1000; omega)
        (by simp only [ticksLeft, hp] at hn; simp [ticksLeft, hp, appendRx]; omega)
      have ew : sameWorld w (received (b :: r) s) = sameWorld w (received r
          { appendRx b (nextSample s) with events := o, tick := k,
                                           history := (nextSample s).history ++ [.received (nextSample s).port b] }) := by
        rw [received_cons b r s hlt']; rfl
      refine ⟨b :: r, w, ?_⟩
      rw [ew, List.length_cons]
      have hlen : ∀ m, (s.rxlen.toNat + (m + 1) = (BitVec.ofNat 16 (s.rxlen.toNat + 1)).toNat + m) := by intro m; omega
      rw [hlen]
      exact ih
    · refine ⟨[], { nextSample s with events := o, tick := k }, .inl ⟨by simpa using hl, ?_⟩⟩
      rw [received_nil, sequencerRun_done rfl]; rfl
    · refine ⟨[], { nextSample s with events := o, tick := k }, .inr ⟨by simpa using hlt, ?_⟩⟩
      rw [received_nil, sequencerRun_done rfl]; rfl

/-- The transmit phase (R173 to R175): it fails at some byte, or the whole request goes out and the line is turned. -/
theorem transmit_phase (c : ExchangeCmd) : ∀ (n : Nat) (s : State), s.busy = true → s.running = some c → s.phase = .tx →
    resetQuiet s → s.txidx.toNat ≤ s.txlen.toNat → ticksLeft s ≤ n →
    (∃ (j : Nat) (w : State), s.txidx.toNat ≤ j ∧ j < s.txlen.toNat ∧
      sequencerRun n s = finishCommand [.transportFault] (releasePort (sameWorld w (sentUpTo j s)))) ∨
    (∃ (m : Nat) (w : State), 1001 ≤ m ∧ resetQuiet w ∧
      sequencerRun n s = sequencerRun m (exchangeTurnaround (sameWorld w (sentUpTo s.txlen.toNat s))))
  | 0, s, _, _, hp, _, _, hn => by simp only [ticksLeft, hp] at hn; omega
  | n + 1, s, hb, hr, hp, hq, hl, hn => by
    have hx := s.txlen.isLt
    rw [sequencerRun_busy hb, sequencerTick_quiet hq hr]
    simp only [ticksLeft, hp] at hn
    by_cases hi : s.txidx.toNat < s.txlen.toNat
    · rw [sequencerStep_transmit (s := nextSample s) hp hi]
      have el : (BitVec.ofNat 16 (s.txidx.toNat + 1)).toNat = s.txidx.toNat + 1 := toNat_ofNat_half (by omega)
      rcases exchangeTransmit_cases (nextSample s) with ⟨o, k, e⟩ | ⟨o, k, e⟩ <;> rw [e]
      · have ih := transmit_phase c n
          { nextSample s with
              sends := o, tick := k, txidx := BitVec.ofNat 16 ((nextSample s).txidx.toNat + 1)
              history := (nextSample s).history ++
                [.sent (nextSample s).port ((nextSample s).txbuf.read (nextSample s).txidx.toNat)] }
          hb hr hp (resetQuiet_nextSample hq) (by show (BitVec.ofNat 16 (s.txidx.toNat + 1)).toNat ≤ s.txlen.toNat; omega)
          (by simp [ticksLeft, hp]; omega)
        rcases ih with ⟨j, w, h1, h2, e⟩ | ⟨m, w, h1, h2, e⟩
        · have h1' : s.txidx.toNat + 1 ≤ j := by
            have : (BitVec.ofNat 16 (s.txidx.toNat + 1)).toNat ≤ j := h1
            omega
          refine .inl ⟨j, w, by omega, h2, ?_⟩
          rw [sentUpTo_succ j s (by omega) (by have : j < s.txlen.toNat := h2; omega), e]; rfl
        · refine .inr ⟨m, w, h1, h2, ?_⟩
          rw [sentUpTo_succ _ s hi (le_refl _), e]; rfl
      · refine .inl ⟨s.txidx.toNat, { nextSample s with sends := o, tick := k }, le_refl _, hi, ?_⟩
        rw [sentUpTo_self, sequencerRun_done rfl]; rfl
    · refine .inr ⟨n, nextSample s, by omega, resetQuiet_nextSample hq, ?_⟩
      rw [sequencerStep_turnaround (s := nextSample s) hp hi, show s.txlen.toNat = s.txidx.toNat by omega, sentUpTo_self]; rfl

/-! ### The exchange as a whole -/

/-- The end of an exchange that began in `s`: the rest of the command after a response, or TransportFault. -/
def exchangeEnd (c : ExchangeCmd) (s : State) : ExchangeOutcome → State → State
  | .response r, w =>
    finishCommand (afterExchange c (sameWorld w (exchangeResult s (.response r)))).1
      (afterExchange c (sameWorld w (exchangeResult s (.response r)))).2
  | o, w => finishCommand [.transportFault] (sameWorld w (exchangeResult s o))

/-- Whatever the environment answers, an exchange ends with one of the four outcomes of 42_transactor R184. -/
theorem sequencerRun_outcome (c : ExchangeCmd) (s : State) (n : Nat) (hb : s.busy = true) (hr : s.running = some c)
    (hc : s.conn = false) (hp : s.phase = .idle) (hq : resetQuiet s) (hn : s.txlen.toNat + 1003 ≤ n) :
    ∃ o w, outcomePossible s o ∧ sequencerRun n s = exchangeEnd c s o w := by
  obtain ⟨n, rfl⟩ : ∃ m, n = m + 1 := ⟨n - 1, by omega⟩
  rw [sequencerRun_busy hb, sequencerTick_quiet hq hr]
  rw [sequencerStep_idle (by exact hp)]
  rcases exchangeStart_cases (nextSample s) with ⟨o, k, hport, e⟩ | ⟨o, k, e⟩ <;> rw [e]
  · have hport' : s.port.toNat < Config.nPorts := hport
    rcases transmit_phase c n
      { nextSample s with
          rxlen := 0, paylen := 0, txidx := 0, opens := o, tick := k, conn := true, phase := .tx
          history := (nextSample s).history ++ [.opened (nextSample s).port] }
      hb hr rfl (resetQuiet_nextSample hq) (Nat.zero_le _) (by simp [ticksLeft]; omega) with
      ⟨j, w, _, hj, e⟩ | ⟨m, w, hm, hw, e₀⟩
    · refine ⟨.txFail j, w, ⟨hport', hj⟩, ?_⟩
      rw [e]
      simp [exchangeEnd, exchangeResult, sameWorld, releasePort, sentUpTo, finishCommand, hc, hp, txBytes]
    · rcases receive_phase c m
        (exchangeTurnaround (sameWorld w (sentUpTo s.txlen.toNat
          { nextSample s with
              rxlen := 0, paylen := 0, txidx := 0, opens := o, tick := k, conn := true, phase := .tx
              history := (nextSample s).history ++ [.opened (nextSample s).port] })))
        hb hr rfl hw (Nat.zero_le _) (le_trans (ticksLeft_le _ rfl) hm) with
        ⟨r, w', ⟨hl, e⟩ | ⟨hl, e⟩⟩
      · have hl' : r.length ≤ Config.rxMax := by simpa [exchangeTurnaround, sameWorld, sentUpTo] using hl
        refine ⟨.response r, w', ⟨hport', hl'⟩, (e₀.trans e).trans ?_⟩
        have key : releasePort (sameWorld w' (received r (exchangeTurnaround (sameWorld w (sentUpTo s.txlen.toNat
            { nextSample s with
                rxlen := 0, paylen := 0, txidx := 0, opens := o, tick := k, conn := true, phase := .tx
                history := (nextSample s).history ++ [.opened (nextSample s).port] }))))) =
            sameWorld w' (exchangeResult s (.response r)) := by
          simp [exchangeResult, sameWorld, releasePort, sentUpTo, received, exchangeTurnaround, hc, hp, txBytes]
        rw [endOfWait]
        exact congrArg (fun u => finishCommand (afterExchange c u).1 (afterExchange c u).2) key
      · have hl' : r.length < Config.rxMax := by simpa [exchangeTurnaround, sameWorld, sentUpTo] using hl
        refine ⟨.rxFault r, w', ⟨hport', hl'⟩, (e₀.trans e).trans ?_⟩
        simp [exchangeEnd, exchangeResult, sameWorld, releasePort, sentUpTo, received, exchangeTurnaround,
          finishCommand, hc, hp, txBytes]
  · exact ⟨.openFail, { nextSample s with opens := o, tick := k }, trivial, by
      rw [sequencerRun_done rfl]; rfl⟩

/-! ### The exchange with the environment's answers listed -/

/-- With the reset input not asserted at all, a sampling point changes nothing. -/
theorem nextSample_quiet {s : State} (h : s.resetPin = []) : nextSample s = s := by
  cases s; simp only at h; subst h; rfl

theorem sequencerTick_plain {c : ExchangeCmd} {s : State} (h : s.resetPin = []) (hr : s.running = some c) :
    sequencerTick s = sequencerStep c s := by
  rw [sequencerTick_quiet (by intro l hl; rw [h] at hl; cases hl) hr, nextSample_quiet h]

/-- Listed transmit answers `ok`: as many request bytes go out. -/
theorem transmit_listed (c : ExchangeCmd) : ∀ (k n : Nat) (as : List Answer) (s : State), s.busy = true →
    s.running = some c → s.phase = .tx → s.resetPin = [] → s.txidx.toNat + k ≤ s.txlen.toNat →
    s.sends = List.replicate k .ok ++ as →
    sequencerRun (k + n) s = sequencerRun n { sentUpTo (s.txidx.toNat + k) s with sends := as }
  | 0, n, as, s, _, _, _, _, _, ha => by
    rw [Nat.zero_add, Nat.add_zero, sentUpTo_self]
    simp only [List.replicate_zero, List.nil_append] at ha
    subst ha; rfl
  | k + 1, n, as, s, hb, hr, hp, hq, hl, ha => by
    have hx := s.txlen.isLt
    have el : (BitVec.ofNat 16 (s.txidx.toNat + 1)).toNat = s.txidx.toNat + 1 := toNat_ofNat_half (by omega)
    have ht : sequencerTick s =
        { s with
            sends := List.replicate k .ok ++ as
            txidx := BitVec.ofNat 16 (s.txidx.toNat + 1)
            history := s.history ++ [.sent s.port (s.txbuf.read s.txidx.toNat)] } := by
      rw [sequencerTick_plain hq hr, sequencerStep_transmit hp (by omega), exchangeTransmit_ok ha]; rfl
    rw [show k + 1 + n = (k + n) + 1 by omega, sequencerRun_busy hb, ht,
      transmit_listed c k n as _ (by exact hb) (by exact hr) (by exact hp) (by exact hq)
        (by show (BitVec.ofNat 16 (s.txidx.toNat + 1)).toNat + k ≤ s.txlen.toNat; omega) rfl,
      sentUpTo_succ (s.txidx.toNat + (k + 1)) s (by omega) hl]
    have ej : (BitVec.ofNat 16 (s.txidx.toNat + 1)).toNat + k = s.txidx.toNat + (k + 1) := by omega
    exact congrArg (sequencerRun n) (by rw [← ej]; rfl)

/-- Listed line events `byte`: as many bytes are received. -/
theorem receive_listed (c : ExchangeCmd) : ∀ (r : List Byte) (n : Nat) (es : List LineEvent) (s : State), s.busy = true →
    s.running = some c → s.phase = .rx → s.resetPin = [] → s.rxlen.toNat + r.length ≤ 1000 →
    s.events = r.map .byte ++ es →
    sequencerRun (r.length + n) s = sequencerRun n { received r s with events := es }
  | [], n, es, s, _, _, _, _, _, he => by
    rw [List.length_nil, Nat.zero_add, received_nil]
    simp only [List.map_nil, List.nil_append] at he
    subst he; rfl
  | b :: r, n, es, s, hb, hr, hp, hq, hl, he => by
    rw [List.length_cons] at hl
    have el : (BitVec.ofNat 16 (s.rxlen.toNat + 1)).toNat = s.rxlen.toNat + 1 := toNat_ofNat_half (by omega)
    have ht : sequencerTick s =
        { appendRx b s with events := r.map .byte ++ es, history := s.history ++ [.received s.port b] } := by
      rw [sequencerTick_plain hq hr, sequencerStep_receive hp, exchangeReceive_byte (by omega) he]; rfl
    rw [List.length_cons, show r.length + 1 + n = (r.length + n) + 1 by omega, sequencerRun_busy hb, ht,
      receive_listed c r n es _ (by exact hb) (by exact hr) (by exact hp) (by exact hq)
        (by show (BitVec.ofNat 16 (s.rxlen.toNat + 1)).toNat + r.length ≤ 1000; omega) rfl,
      received_cons b r s (by omega)]
    rfl

/-- An exchange whose environment's answers are listed ends with the outcome they bring about. -/
theorem sequencerRun_listed (c : ExchangeCmd) (s : State) (o : ExchangeOutcome) (hb : s.busy = true)
    (hr : s.running = some c) (hc : s.conn = false) (hp : s.phase = .idle) (ho : outcomePossible s o)
    (hport : s.port.toNat < Config.nPorts) :
    ∃ w, sequencerRun (exchangeBound s) (withOutcome o s.txlen.toNat s) = exchangeEnd c s o w := by
  have hx := s.txlen.isLt
  have open_ok : ∀ n, scriptOpens o = [.ok] →
      sequencerRun (n + 1) (withOutcome o s.txlen.toNat s) = sequencerRun n
        { withOutcome o s.txlen.toNat s with
            rxlen := 0, paylen := 0, txidx := 0, opens := [], conn := true, phase := .tx
            history := s.history ++ [.opened s.port] } := by
    intro n h
    rw [sequencerRun_busy (by exact hb), sequencerTick_plain rfl (by exact hr), sequencerStep_idle (by exact hp),
      exchangeStart_ok (by exact hport) (by exact h)]
    rfl
  have turn : ∀ (n : Nat) (t : State), t.busy = true → t.running = some c → t.resetPin = [] → t.phase = .tx →
      t.txidx = t.txlen → sequencerRun (n + 1) t = sequencerRun n (exchangeTurnaround t) := by
    intro n t hb hr hq hp hi
    rw [sequencerRun_busy hb, sequencerTick_plain hq hr, sequencerStep_turnaround hp (by rw [hi]; omega)]
  unfold exchangeBound
  cases o with
  | openFail =>
    refine ⟨{ s with opens := [], sends := [], events := [], resetPin := [] }, ?_⟩
    rw [sequencerRun_busy (by exact hb), sequencerTick_plain rfl (by exact hr), sequencerStep_idle (by exact hp),
      exchangeStart_fail (rest := []) (by exact hport) rfl, sequencerRun_done rfl]
    rfl
  | txFail k =>
    obtain ⟨-, hk⟩ := ho
    have e1 : s.txlen.toNat + Config.rxMax + 3 = (k + ((s.txlen.toNat - k + 1001) + 1)) + 1 := by
      show s.txlen.toNat + 1000 + 3 = _; omega
    refine ⟨{ s with opens := [], sends := [], events := [], resetPin := [] }, ?_⟩
    rw [e1, open_ok _ rfl, transmit_listed c k _ [.fail] _ (by exact hb) (by exact hr) rfl rfl
      (by simp [withOutcome]; omega) rfl, sequencerRun_busy (by exact hb),
      sequencerTick_plain rfl (by exact hr), sequencerStep_transmit rfl (by
        simp [sentUpTo, withOutcome]
        rw [Nat.mod_eq_of_lt (by omega)]; exact hk),
      exchangeTransmit_fail (rest := []) rfl, sequencerRun_done rfl]
    simp [exchangeEnd, exchangeResult, sameWorld, releasePort, finishCommand, hc, hp, txBytes,
      withOutcome, scriptEvents, sentUpTo]
  | rxFault r =>
    obtain ⟨-, hk⟩ := ho
    have hk' : r.length < 1000 := hk
    have e1 : s.txlen.toNat + Config.rxMax + 3 =
        (s.txlen.toNat + ((r.length + ((1000 - r.length) + 1)) + 1)) + 1 := by
      show s.txlen.toNat + 1000 + 3 = _; omega
    refine ⟨{ s with opens := [], sends := [], events := [], resetPin := [] }, ?_⟩
    rw [e1, open_ok _ rfl, transmit_listed c s.txlen.toNat _ [] _ (by exact hb) (by exact hr) rfl rfl
      (by simp [withOutcome]) (by simp [withOutcome, scriptSends]),
      turn _ _ (by exact hb) (by exact hr) rfl rfl (by simp [sentUpTo, withOutcome]),
      receive_listed c r _ [.fault] _ (by exact hb) (by exact hr) rfl rfl
        (by simp [exchangeTurnaround, sentUpTo, withOutcome]; omega) rfl,
      sequencerRun_busy (by exact hb), sequencerTick_plain rfl (by exact hr), sequencerStep_receive rfl,
      exchangeReceive_fault (rest := []) (by
        simp [received, exchangeTurnaround, sentUpTo, withOutcome]
        rw [Nat.mod_eq_of_lt (by omega)]; exact hk') rfl, sequencerRun_done rfl]
    simp [received, exchangeTurnaround, exchangeEnd, exchangeResult, sameWorld, releasePort, finishCommand, hc, hp, txBytes, withOutcome, sentUpTo]
  | response r =>
    obtain ⟨-, hk⟩ := ho
    have hk' : r.length ≤ 1000 := hk
    have e1 : s.txlen.toNat + Config.rxMax + 3 =
        (s.txlen.toNat + ((r.length + ((1000 - r.length) + 1)) + 1)) + 1 := by
      show s.txlen.toNat + 1000 + 3 = _; omega
    have key : ∀ es, releasePort { s with
        rxlen := BitVec.ofNat 16 r.length, paylen := 0, txidx := s.txlen, rxbuf := s.rxbuf.writeAll 0 r
        history := s.history ++ [.opened s.port] ++ (txBytes s).map (.sent s.port) ++ r.map (.received s.port)
        opens := [], sends := [], events := es, resetPin := [], conn := true, phase := .rx } =
        sameWorld { s with opens := [], sends := [], events := es, resetPin := [] } (exchangeResult s (.response r)) := by
      intro es
      simp [releasePort, sameWorld, exchangeResult, hc, hp]
    have run : sequencerRun (s.txlen.toNat + Config.rxMax + 3) (withOutcome (.response r) s.txlen.toNat s) =
        sequencerRun ((1000 - r.length) + 1) { s with
          rxlen := BitVec.ofNat 16 r.length, paylen := 0, txidx := s.txlen, rxbuf := s.rxbuf.writeAll 0 r
          history := s.history ++ [.opened s.port] ++ (txBytes s).map (.sent s.port) ++ r.map (.received s.port)
          opens := [], sends := [], events := [.timeout], resetPin := [], conn := true, phase := .rx } := by
      rw [e1, open_ok _ rfl, transmit_listed c s.txlen.toNat _ [] _ (by exact hb) (by exact hr) rfl rfl
        (by simp [withOutcome]) (by simp [withOutcome, scriptSends]),
        turn _ _ (by exact hb) (by exact hr) rfl rfl (by simp [sentUpTo, withOutcome]),
        receive_listed c r _ [.timeout] _ (by exact hb) (by exact hr) rfl rfl
          (by simp [exchangeTurnaround, sentUpTo, withOutcome]; omega) rfl]
      simp [exchangeTurnaround, received, sentUpTo, withOutcome, txBytes]
    by_cases h1000 : r.length = 1000
    · refine ⟨{ s with opens := [], sends := [], events := [.timeout], resetPin := [] }, ?_⟩
      rw [run, sequencerRun_busy (by exact hb), sequencerTick_plain rfl (by exact hr), sequencerStep_receive rfl,
        exchangeReceive_full (by simp [h1000]), sequencerRun_done rfl, endOfWait, key]
      rfl
    · refine ⟨{ s with opens := [], sends := [], events := [], resetPin := [] }, ?_⟩
      rw [run, sequencerRun_busy (by exact hb), sequencerTick_plain rfl (by exact hr), sequencerStep_receive rfl,
        exchangeReceive_timeout (rest := []) (by
          simp
          rw [Nat.mod_eq_of_lt (by omega)]; omega) rfl, sequencerRun_done rfl, endOfWait, key]
      rfl

/-! ### What the commands make of an exchange -/

/-- The bytes of a response stand in RXBUF. -/
theorem rxBytes_exchangeResult {s w : State} {r : List Byte} (hw : s.rxbuf.wf) (hl : r.length ≤ 1000) :
    rxBytes (sameWorld w (exchangeResult s (.response r))) = r :=
  rxBytes_writeAll (s := s) hw (by omega)

/-- The checks of a response are those of the byte sequence. -/
theorem checks_exchangeResult {s w : State} {r : List Byte} (hw : s.rxbuf.wf) (hl : r.length ≤ 1000) :
    lengthKinds (sameWorld w (exchangeResult s (.response r))) =
      (if r.length < Config.minFrame then [.timeoutEmpty] else []) ∧
    trailerKinds (sameWorld w (exchangeResult s (.response r))) =
      (if validFrame r then [] else [.checksumMismatch]) ∧
    echoKinds (sameWorld w (exchangeResult s (.response r))) = (if r = txBytes s then [] else [.echoMismatch]) := by
  have hb := rxBytes_exchangeResult (w := w) hw hl
  have hn : (sameWorld w (exchangeResult s (.response r))).rxlen.toNat = r.length := toNat_ofNat_half (by omega)
  refine ⟨?_, ?_, ?_⟩
  · rw [lengthKinds, hn]
  · rw [trailerKinds, checkTrailer_ok, hb]
  · unfold echoKinds
    have := sameBytes_iff (sameWorld w (exchangeResult s (.response r)))
    rw [hb] at this
    by_cases h : r = txBytes s
    · rw [if_pos h, if_pos (this.2 h)]
    · rw [if_neg h, if_neg (fun hs => h (this.1 hs))]

/-- The state of a command at the start of its exchange, from the state it was issued in. -/
def exchangeBegun (c : ExchangeCmd) (s : State) : State := { requestReady c (beginCommand s) with running := some c }

theorem requestReady_beginCommand (c : ExchangeCmd) (s : State) :
    exchangeBegun c s =
      { requestReady c s with busy := true, result := 0, cause := 0, tick := s.tick + 1, running := some c } := by
  cases c <;> rfl

/-- The end of an exchange, as the commands report it (42_transactor R180 to R182, R184). -/
theorem sameWorld_exchangeEnd (c : ExchangeCmd) (s v w : State) (o : ExchangeOutcome) (hw : s.rxbuf.wf)
    (ho : outcomePossible (requestReady c s) o) :
    sameWorld v (exchangeEnd c (exchangeBegun c s) o w) = sameWorld v (commandEnd c (requestReady c s) o) := by
  rw [requestReady_beginCommand]
  have hw' : (requestReady c s).rxbuf.wf := by cases c <;> exact hw
  generalize requestReady c s = u at ho hw'
  cases o with
  | openFail => rfl
  | txFail k => rfl
  | rxFault r => rfl
  | response r =>
    have hl : r.length ≤ 1000 := ho.2
    let u' : State := { u with busy := true, result := 0, cause := 0, tick := s.tick + 1, running := some c }
    have hu : u'.rxbuf.wf := hw'
    obtain ⟨h1, h2, h3⟩ := checks_exchangeResult (w := w) hu hl
    have hb := rxBytes_exchangeResult (w := w) hu hl
    have hn : (sameWorld w (exchangeResult u' (.response r))).rxlen.toNat = r.length := toNat_ofNat_half (by omega)
    cases c with
    | xchg =>
      show sameWorld v (finishCommand (lengthKinds (sameWorld w (exchangeResult u' (.response r))))
        (sameWorld w (exchangeResult u' (.response r)))) = _
      rw [h1]; rfl
    | rdregs =>
      have e : afterRdregs (sameWorld w (exchangeResult u' (.response r))) =
          (readKinds r, { setCrc (checkedCrc (u.crcLo, u.crcHi) r) (sameWorld w (exchangeResult u' (.response r))) with
            paylen := if readKinds r = [] then BitVec.ofNat 16 (payloadLength r.length) else 0 }) := by
        simp only [afterRdregs, h1, h2, checkTrailer_state, hb, hn]; rfl
      show sameWorld v (finishCommand (afterRdregs (sameWorld w (exchangeResult u' (.response r)))).1
        (afterRdregs (sameWorld w (exchangeResult u' (.response r)))).2) = _
      rw [e]; rfl
    | wrcoil =>
      have e : afterWrcoil (sameWorld w (exchangeResult u' (.response r))) =
          (writeKinds (txBytes u) r,
            { setCrc (checkedCrc (u.crcLo, u.crcHi) r) (sameWorld w (exchangeResult u' (.response r))) with
              paylen := 0 }) := by
        simp only [afterWrcoil, h1, h2, h3, checkTrailer_state, hb]; rfl
      show sameWorld v (finishCommand (afterWrcoil (sameWorld w (exchangeResult u' (.response r)))).1
        (afterWrcoil (sameWorld w (exchangeResult u' (.response r)))).2) = _
      rw [e]; rfl

/-- A command on operands in range runs its exchange from its request. -/
theorem exec_exchange {c : ExchangeCmd} {s : State} (h : operandsInRange c s) :
    exec (exchangeInstr c) s =
      .next (sequencerRun ((requestReady c s).txlen.toNat + 1003) (exchangeBegun c s)) := by
  cases c with
  | xchg => rfl
  | rdregs =>
    show Host.Outcome.next (buildAndExchange bldRdBody .rdregs (beginCommand s)) = _
    rw [buildAndExchange, bldRdBody_ok (s := beginCommand s) h, if_pos rfl]; rfl
  | wrcoil =>
    show Host.Outcome.next (buildAndExchange bldWcBody .wrcoil (beginCommand s)) = _
    rw [buildAndExchange, bldWcBody_ok (s := beginCommand s) h, if_pos rfl]; rfl

/-- A command on operands out of range ends at once with InvalidArgument, and nothing else happens. -/
theorem exec_exchange_bad {c : ExchangeCmd} {s : State} (h : ¬operandsInRange c s) :
    exec (exchangeInstr c) s = .next (ended 0x04 2 s) := by
  cases c with
  | xchg => exact absurd trivial h
  | rdregs =>
    show Host.Outcome.next (buildAndExchange bldRdBody .rdregs (beginCommand s)) = _
    rw [buildAndExchange, bldRdBody_bad (s := beginCommand s) h, if_neg (by simp), finishCommand_argument]; rfl
  | wrcoil =>
    show Host.Outcome.next (buildAndExchange bldWcBody .wrcoil (beginCommand s)) = _
    rw [buildAndExchange, bldWcBody_bad (s := beginCommand s) h, if_neg (by simp), finishCommand_argument]; rfl

end Sys2Proof.Machine
end

