-- ==== Sys2Proof/Laws/PerInstr.lean ====
section
/-! SUPPORT. A fact about every instruction as syntax, one lemma for each constructor: the length of its encoding, one byte
for a command word (30_encoding R91) and eight for a request frame (R95, R96, R103). -/

namespace Sys2Proof.Laws.EncodeLength

/-- The bytes of an instruction's encoding: a frame row of the opcode table has 64 bits, every other row 8. -/
def Statement (i : Instr) : Prop := (encode i).length = 1 ∨ (encode i).length = 8

theorem crcInit : Statement .crcInit := .inl rfl
theorem crcUpd : Statement .crcUpd := .inl rfl
theorem txClr : Statement .txClr := .inl rfl
theorem txPut : Statement .txPut := .inl rfl
theorem rxClr : Statement .rxClr := .inl rfl
theorem rxPut : Statement .rxPut := .inl rfl
theorem bldRd : Statement .bldRd := .inl rfl
theorem bldWc : Statement .bldWc := .inl rfl
theorem valid : Statement .valid := .inl rfl
theorem echo : Statement .echo := .inl rfl
theorem xchg : Statement .xchg := .inl rfl
theorem rdregs : Statement .rdregs := .inl rfl
theorem wrcoil : Statement .wrcoil := .inl rfl
theorem reqRd (dev : Byte) (reg count : Half) (lo hi : Byte) : Statement (.reqRd dev reg count lo hi) := .inr rfl
theorem reqWcOn (dev : Byte) (reg : Half) (lo hi : Byte) : Statement (.reqWcOn dev reg lo hi) := .inr rfl
theorem reqWcOff (dev : Byte) (reg : Half) (lo hi : Byte) : Statement (.reqWcOff dev reg lo hi) := .inr rfl

end Sys2Proof.Laws.EncodeLength
end

