-- ==== Sys2Proof/Tests/Slice0.lean ====
section
/-! SUPPORT. The tests: ill-formed instructions refused, words written out bit by bit, at most two small cases for each
instruction with results taken from the spec's examples and vectors (95_test_vectors), and for every statement with
hypotheses a witness that they can be met. -/

namespace Sys2Proof.Tests

open Sys2Proof Sys2Proof.Machine

/-- A field of the state an outcome answers, if it answers one. -/
def after {α : Type} (o : Host.Outcome State Fault Refusal) (f : State → α) : Option α :=
  match o with
  | .next t => some (f t)
  | .fault _ => none
  | .refused _ => none

/-- The reset state with a request and a response in the buffers. -/
def holding (tx rx : List Byte) : State :=
  { State.reset with
    txbuf := Memory.writeAll [] 0 tx, txlen := BitVec.ofNat 16 tx.length
    rxbuf := Memory.writeAll [] 0 rx, rxlen := BitVec.ofNat 16 rx.length }

/-- The reset state with operands. -/
def operands (dev reg cnt : Word) (coil : BitVec 1) : State :=
  { State.reset with argDev := dev, argReg := reg, argCnt := cnt, argCoil := coil }

/-- What a command reports. -/
def report (s : State) : Byte × BitVec 3 := (s.result, s.cause)

/-! ### WellFormed refuses an ill-formed term of each check -/

theorem test_reqRd_wellFormed : (Instr.reqRd 0x04 0x0000 0x0001 0x84 0x5F).wellFormed = true := by decide
theorem test_reqRd_wrong_low_checksum : (Instr.reqRd 0x04 0x0000 0x0001 0x85 0x5F).wellFormed = false := by decide
theorem test_reqRd_swapped_checksum : (Instr.reqRd 0x04 0x0000 0x0001 0x5F 0x84).wellFormed = false := by decide
theorem test_reqWcOn_wellFormed : (Instr.reqWcOn 0x01 0x0000 0x8C 0x3A).wellFormed = true := by decide
theorem test_reqWcOn_wrong_checksum : (Instr.reqWcOn 0x01 0x0000 0x8C 0x3B).wellFormed = false := by decide
theorem test_reqWcOff_wellFormed : (Instr.reqWcOff 0x01 0x0000 0xCD 0xCA).wellFormed = true := by decide
theorem test_reqWcOff_wrong_checksum : (Instr.reqWcOff 0x01 0x0000 0x8C 0x3A).wellFormed = false := by decide

/-! ### Words written out bit by bit (30_encoding R92, R95, R96) decode to what they stand for -/

theorem test_decode_crcInit : decode [0b00000001] = .ok .crcInit := by decide
theorem test_decode_crcUpd : decode [0b00000010] = .ok .crcUpd := by decide
theorem test_decode_txClr : decode [0b00010000] = .ok .txClr := by decide
theorem test_decode_txPut : decode [0b00010001] = .ok .txPut := by decide
theorem test_decode_rxClr : decode [0b00010010] = .ok .rxClr := by decide
theorem test_decode_rxPut : decode [0b00010011] = .ok .rxPut := by decide
theorem test_decode_bldRd : decode [0b00100000] = .ok .bldRd := by decide
theorem test_decode_bldWc : decode [0b00100001] = .ok .bldWc := by decide
theorem test_decode_valid : decode [0b00100010] = .ok .valid := by decide
theorem test_decode_echo : decode [0b00100011] = .ok .echo := by decide
theorem test_decode_xchg : decode [0b00110000] = .ok .xchg := by decide
theorem test_decode_rdregs : decode [0b00110011] = .ok .rdregs := by decide
theorem test_decode_wrcoil : decode [0b00110101] = .ok .wrcoil := by decide
/-- V26. -/
theorem test_decode_reqRd :
    decode [0b00000100, 0b00000011, 0b00010010, 0b00110100, 0b00000000, 0b00000010, 0b10000000, 0b11101000] =
      .ok (.reqRd 4 0x1234 2 0x80 0xE8) := by decide
/-- V34. -/
theorem test_decode_reqWcOn :
    decode [0b00000010, 0b00000101, 0b00000000, 0b00000011, 0b11111111, 0b00000000, 0b01111100, 0b00001001] =
      .ok (.reqWcOn 2 3 0x7C 0x09) := by decide
/-- V35. -/
theorem test_decode_reqWcOff :
    decode [0b00000010, 0b00000101, 0b00000000, 0b00000011, 0b00000000, 0b00000000, 0b00111101, 0b11111001] =
      .ok (.reqWcOff 2 3 0x3D 0xF9) := by decide
/-- The opcode table's numbering of a frame row, log entry 11: the first byte is bits 63 to 56. -/
theorem test_decodeTableWord_frame :
    decodeTableWord 64 0x04031234000280E8 = some (.reqRd 4 0x1234 2 0x80 0xE8) := by decide
theorem test_reserved_word : decode [0x31] = .error (.reservedWord 0x31) := by decide
theorem test_unknown_function :
    decode [0x04, 0x04, 0x00, 0x00, 0x00, 0x01, 0x84, 0x5F] = .error (.unknownFunction 0x04) := by decide
theorem test_unknown_coil_value :
    decode [0x01, 0x05, 0x00, 0x00, 0xFF, 0x01, 0x8C, 0x3A] = .error (.unknownCoilValue 0xFF01) := by decide

/-! ### The checksum engine -/

/-- 40_crc R121. -/
theorem test_crcInit : after (exec .crcInit { State.reset with crcLo := 3, crcHi := 7 }) crcAcc = some (0xFF, 0xFF) := by
  decide
/-- 40_crc R122: from (0xFF, 0xFF) with 0x04 the result is (0xBE, 0x83). -/
theorem test_crcUpd : after (exec .crcUpd { State.reset with data := 0x04 }) crcAcc = some (0xBE, 0x83) := by decide
/-- 40_crc R126, V2: "123456789". -/
theorem test_crc16_check_value :
    crc16 [0x31, 0x32, 0x33, 0x34, 0x35, 0x36, 0x37, 0x38, 0x39] = (0x37, 0x4B) := by decide +kernel

/-! ### The codec -/

/-- 41_codec R140. -/
theorem test_txClr : after (exec .txClr (holding [1, 2, 3] [])) (fun t => t.txlen) = some 0 := by decide
/-- 41_codec R141: `TX.PUT #0x04` from an empty buffer. -/
theorem test_txPut : after (exec .txPut { State.reset with data := 0x04 }) txBytes = some [0x04] := by decide
/-- 41_codec R141: the ninth TX.PUT fails and leaves the eight bytes. -/
theorem test_txPut_full :
    after (exec .txPut (holding [1, 2, 3, 4, 5, 6, 7, 8] [])) (fun t => (report t, txBytes t)) =
      some ((0x04, 2), [1, 2, 3, 4, 5, 6, 7, 8]) := by decide
/-- 41_codec R142. -/
theorem test_rxClr :
    after (exec .rxClr { holding [] [1, 2, 3, 4, 5, 6] with paylen := 1 }) (fun t => (t.rxlen, t.paylen)) =
      some (0, 0) := by decide
/-- 41_codec R143: the byte is appended and PAYLEN falls to 0. -/
theorem test_rxPut :
    after (exec .rxPut { holding [] [0xFF] with data := 0xFF, paylen := 9 }) (fun t => (rxBytes t, t.paylen)) =
      some ([0xFF, 0xFF], 0) := by decide
/-- V26: every field byte differs. -/
theorem test_bldRd :
    after (exec .bldRd (operands 4 0x1234 2 0)) txBytes = some [0x04, 0x03, 0x12, 0x34, 0x00, 0x02, 0x80, 0xE8] := by
  decide
/-- V31: only the count is out of range. -/
theorem test_bldRd_count_out_of_range :
    after (exec .bldRd (operands 4 0 65536 0)) (fun t => (report t, txBytes t)) = some ((0x04, 2), []) := by decide
/-- V34. -/
theorem test_bldWc_on :
    after (exec .bldWc (operands 2 3 99999 1)) txBytes = some [0x02, 0x05, 0x00, 0x03, 0xFF, 0x00, 0x7C, 0x09] := by
  decide
/-- V39. -/
theorem test_bldWc_out_of_range :
    after (exec .bldWc (operands 300 0 0 1)) (fun t => (report t, crcAcc t)) = some ((0x04, 2), (0xFF, 0xFF)) := by decide
/-- V20. -/
theorem test_valid :
    after (exec .valid (holding [] [0x04, 0x03, 0x02, 0x01, 0x38, 0x74, 0x06])) (fun t => (report t, t.paylen)) =
      some ((0x01, 0), 2) := by decide
/-- V22: the accumulators hold the computed checksum. -/
theorem test_valid_mismatch :
    after (exec .valid (holding [] [0x04, 0x03, 0x02, 0x01, 0x38, 0x75, 0x06])) (fun t => (report t, crcAcc t)) =
      some ((0x20, 5), (0x74, 0x06)) := by decide
/-- V40. -/
theorem test_echo :
    after (exec .echo (holding [0x01, 0x05] [0x01, 0x05])) report = some (0x01, 0) := by decide
/-- V43: a longer response that begins with the request. -/
theorem test_echo_longer :
    after (exec .echo (holding [0x01, 0x05] [0x01, 0x05, 0x00])) report = some (0x40, 6) := by decide

/-! ### The frame rows (log entry 10) -/

/-- V26. -/
theorem test_reqRd :
    after (exec (.reqRd 4 0x1234 2 0x80 0xE8) State.reset) (fun t => (txBytes t, t.argReg)) =
      some ([0x04, 0x03, 0x12, 0x34, 0x00, 0x02, 0x80, 0xE8], 0x1234) := by decide
/-- V34. -/
theorem test_reqWcOn :
    after (exec (.reqWcOn 2 3 0x7C 0x09) State.reset) (fun t => (txBytes t, t.argCoil)) =
      some ([0x02, 0x05, 0x00, 0x03, 0xFF, 0x00, 0x7C, 0x09], 1) := by decide
/-- V35. -/
theorem test_reqWcOff :
    after (exec (.reqWcOff 2 3 0x3D 0xF9) State.reset) (fun t => (txBytes t, t.argCoil)) =
      some ([0x02, 0x05, 0x00, 0x03, 0x00, 0x00, 0x3D, 0xF9], 0) := by decide

/-! ### The transactor -/

/-- V58: bytes stay readable, the command reports that they are too few. -/
theorem test_xchg_short :
    after (exec .xchg (withOutcome (.response [0x04, 0x03, 0x02]) 2 (holding [0xAA, 0xBB] [])))
      (fun t => (report t, rxBytes t, t.history)) =
      some ((0x10, 4), [0x04, 0x03, 0x02],
        [.opened 0, .sent 0 0xAA, .sent 0 0xBB, .received 0 0x04, .received 0 0x03, .received 0 0x02, .closed 0]) := by
  decide +kernel
/-- V69: an empty request goes straight to listening. -/
theorem test_xchg_empty_request :
    after (exec .xchg (withOutcome (.response [0xAA, 0xBB, 0xCC, 0xDD]) 0 State.reset)) report = some (0x01, 0) := by
  decide +kernel
/-- V70. -/
theorem test_rdregs :
    after (exec .rdregs (withOutcome (.response [0x04, 0x03, 0x02, 0x01, 0x38, 0x74, 0x06]) 8 (operands 4 0 1 0)))
      (fun t => (report t, t.paylen, crcAcc t)) = some ((0x01, 0), 2, (0x74, 0x06)) := by decide +kernel
/-- V82. -/
theorem test_rdregs_txFail :
    after (exec .rdregs (withOutcome (.txFail 3) 8 (operands 4 0 1 0))) (fun t => (report t, t.history)) =
      some ((0x08, 3), [.opened 0, .sent 0 0x04, .sent 0 0x03, .sent 0 0x00, .closed 0]) := by decide +kernel
/-- V60. -/
theorem test_wrcoil :
    after (exec .wrcoil (withOutcome (.response [0x01, 0x05, 0x00, 0x00, 0xFF, 0x00, 0x8C, 0x3A]) 8 (operands 1 0 0 1)))
      report = some (0x01, 0) := by decide +kernel
/-- V64: one byte too many; the checksum test passes, only the echo test fails. -/
theorem test_wrcoil_one_byte_more :
    after (exec .wrcoil
        (withOutcome (.response [0x01, 0x05, 0x00, 0x00, 0xFF, 0x00, 0x8C, 0x3A, 0x00]) 8 (operands 1 0 0 1)))
      (fun t => (report t, crcAcc t)) = some ((0x40, 6), (0x3A, 0x00)) := by decide +kernel

/-! ### Steps -/

/-- An instruction placed by `withFetchWord` is what the next step runs. -/
theorem test_step_withFetchWord :
    after (step ({ State.reset with data := 0x04 }.withFetchWord 8 0x02)) crcAcc = some (0xBE, 0x83) := by decide
theorem test_step_withFetchWord_frame :
    after (step (State.reset.withFetchWord 64 0x04031234000280E8)) txBytes =
      some [0x04, 0x03, 0x12, 0x34, 0x00, 0x02, 0x80, 0xE8] := by decide
/-- 30_encoding R93. -/
theorem test_step_reserved_word :
    after (step { State.reset with hostQueue := [.write 0 0xFF] }) report = some (0x02, 1) := by decide
/-- 10_state R38, R43: TXIDX stays in `0..TXLEN` when TX.CLR empties the request. -/
theorem test_txClr_keeps_txidx_in_range :
    after (exec .txClr { holding [1, 2, 3] [] with txidx := 3 }) (fun t => (t.txlen, t.txidx)) = some (0, 0) := by decide

/-! ### The host reference -/

/-- V91, V92: 8000 is not flipped, 8001 is. -/
theorem test_temperature_threshold :
    decodeReading [0x1F, 0x40] .temperature = some (.temperature 8000) ∧
    decodeReading [0x1F, 0x41] .temperature = some (.temperature (-57535)) := by decide

/-! ### Witnesses: for each statement with hypotheses, a state and operands that meet all of them -/

/-- The reset state with the host's next move. -/
def nextMove (m : HostMove) : State := { State.reset with hostQueue := [m] }

/-- An exchange of XCHG under way, in a given phase, with the environment's answers listed. -/
def underExchange (ph : Phase) (opens sends : List Answer) (events : List LineEvent) : State :=
  { holding [0xAA, 0xBB] [] with
    busy := true, running := some .xchg, phase := ph, conn := ph != .idle
    opens := opens, sends := sends, events := events }

theorem reset_quiet : resetQuiet State.reset := by intro l h; cases h
theorem reset_atRest : atRest State.reset := ⟨rfl, rfl, rfl⟩

theorem witness_EncodeInvertsDecode : ∃ i, decode [0x33] = .ok i := ⟨.rdregs, by decide⟩
theorem witness_StepRunsTheCommandWritten :
    resetLevel (nextMove (.write 0 0x33)) = false ∧ (nextMove (.write 0 0x33)).busy = false ∧
    (nextMove (.write 0 0x33)).hostQueue = .write 0 0x33 :: [] ∧ 0x33 < 256 ∧
    decode [BitVec.ofNat 8 0x33] = .ok .rdregs := by decide
theorem witness_StepBuildsTheFrameRequested :
    let bytes : List Byte := [0x01, 0x05, 0x00, 0x00, 0xFF, 0x00, 0x8C, 0x3A]
    resetLevel (nextMove (.request bytes)) = false ∧ (nextMove (.request bytes)).busy = false ∧
    (nextMove (.request bytes)).hostQueue = .request bytes :: [] ∧ bytes.length = 8 ∧
    decode bytes = .ok (.reqWcOn 1 0 0x8C 0x3A) := by decide
theorem witness_ReservedWordRaisesIllegalCommand :
    resetLevel (nextMove (.write 0 255)) = false ∧ (nextMove (.write 0 255)).busy = false ∧
    (nextMove (.write 0 255)).hostQueue = .write 0 255 :: [] ∧ 255 < 256 ∧
    255 ∉ [0x01, 0x02, 0x10, 0x11, 0x12, 0x13, 0x20, 0x21, 0x22, 0x23, 0x30, 0x33, 0x35] := by decide
/-- The windows of the register table, at the last index below each length. -/
theorem witness_RegistersReadByNumber :
    let s := { holding [1, 2] [3, 4, 5] with idx := 1 }
    s.idx.toNat < s.txlen.toNat ∧ s.idx.toNat < s.rxlen.toNat := by decide
theorem witness_HostReadHasNoSideEffect :
    resetLevel (nextMove (.read 19)) = false ∧ (nextMove (.read 19)).busy = false ∧
    (nextMove (.read 19)).hostQueue = .read 19 :: [] ∧ 19 ≤ 19 ∧
    readRegister 18 { holding [7] [] with idx := 0 } = some 7 := by decide
theorem witness_HostReadHasNoSideEffect_above :
    resetLevel (nextMove (.read 20)) = false ∧ (nextMove (.read 20)).busy = false ∧
    (nextMove (.read 20)).hostQueue = .read 20 :: [] ∧ 19 < 20 := by decide
theorem witness_HostWriteReplacesTheRegister :
    resetLevel (nextMove (.write 7 1)) = false ∧ (nextMove (.write 7 1)).busy = false ∧
    (nextMove (.write 7 1)).hostQueue = .write 7 1 :: [] ∧ 7 ∈ [4, 5, 6, 7, 8, 9, 10, 17] ∧
    regWidth 7 = some 1 ∧ 1 < 2 ^ 1 := by decide
theorem witness_HostWriteReplacesTheRegister_widest :
    (nextMove (.write 4 0xFFFFFFFF)).hostQueue = .write 4 0xFFFFFFFF :: [] ∧ 4 ∈ [4, 5, 6, 7, 8, 9, 10, 17] ∧
    regWidth 4 = some 32 ∧ 0xFFFFFFFF < 2 ^ 32 := by decide
theorem witness_HostWriteToReadOnlyIsIgnored :
    resetLevel (nextMove (.write 19 255)) = false ∧ (nextMove (.write 19 255)).busy = false ∧
    (nextMove (.write 19 255)).hostQueue = .write 19 255 :: [] ∧
    19 ∈ [1, 2, 3, 11, 12, 13, 14, 15, 16, 18, 19] ∧ regWidth 19 = some 8 ∧ 255 < 2 ^ 8 := by decide
theorem witness_HostIsHeldWhileBusy :
    resetLevel (underExchange .idle [.ok] [] []) = false ∧ (underExchange .idle [.ok] [] []).busy = true ∧
    after (step (underExchange .idle [.ok] [] [])) (fun t => t.phase) = some .tx := by decide
theorem witness_ResetReachesTheResetState : resetLevel { underExchange .rx [] [] [] with resetPin := [true] } = true := by
  decide
theorem witness_ResultAndCause : ([.checksumMismatch, .echoMismatch] : List ErrorKind) ≠ [] := by decide
theorem witness_EveryInstructionReports :
    resetQuiet State.reset ∧ atRest State.reset ∧ ∃ t, exec .crcInit State.reset = .next t :=
  ⟨reset_quiet, reset_atRest, _, rfl⟩
theorem witness_CommandsKeepTheOperandRegisters :
    resetQuiet State.reset ∧ (encode .xchg).length = 1 ∧ ∃ t, exec .xchg State.reset = .next t :=
  ⟨reset_quiet, rfl, _, rfl⟩
theorem witness_CrcUpdTakesOneTableStep :
    (0x8341 : Half) = crcTable.getD (State.reset.crcLo ^^^ ({ State.reset with data := 0x04 } : State).data).toNat 0 := by
  decide
theorem witness_StreamedBytesGiveTheChecksum :
    let s := { State.reset with hostQueue := expand (.crc16Of [0x31, 0x32]) }
    s.resetPin = [] ∧ s.busy = false ∧ s.hostQueue = expand (.crc16Of [0x31, 0x32]) := by decide
theorem witness_WholeFrameLeavesZero : crc16 [0x00] = (0xBF, 0x40) := by decide
theorem witness_ChangedBodyByteIsDetected :
    (0x04 : Byte) ≠ 0x05 ∧
    validFrame ([] ++ [0x04] ++ [0x03, 0x02, 0x01, 0x38] ++ [0x74, 0x06]) = true := by decide
theorem witness_TrailingZerosStayValid : validFrame [0x04, 0x03, 0x02, 0x01, 0x38, 0x74, 0x06] = true := by decide
theorem witness_TxPutAppendsData :
    (holding [1, 2, 3, 4, 5, 6, 7] []).txlen.toNat < 8 ∧ (holding [1, 2, 3, 4, 5, 6, 7] []).txbuf.wf ∧
    (holding [1, 2, 3, 4, 5, 6, 7, 8] []).txlen.toNat = 8 := by decide
theorem witness_RxPutAppendsData :
    ({ State.reset with rxlen := 999 } : State).rxlen.toNat < 1000 ∧ State.reset.rxbuf.wf ∧
    ({ State.reset with rxlen := 1000 } : State).rxlen.toNat = 1000 := by decide
/-- Both sides of the argument check, at its bounds. -/
theorem witness_BldRdBuildsTheRequest :
    (let s := operands 255 65535 65535 0
     s.argDev.toNat ≤ 255 ∧ s.argReg.toNat ≤ 65535 ∧ s.argCnt.toNat ≤ 65535 ∧ s.txbuf.wf) ∧
    (let s := operands 255 65535 65536 0
     ¬(s.argDev.toNat ≤ 255 ∧ s.argReg.toNat ≤ 65535 ∧ s.argCnt.toNat ≤ 65535)) := by decide
theorem witness_BldWcBuildsTheRequest :
    (let s := operands 255 65535 99999 1
     s.argDev.toNat ≤ 255 ∧ s.argReg.toNat ≤ 65535 ∧ s.txbuf.wf) ∧
    (let s := operands 256 65535 0 0
     ¬(s.argDev.toNat ≤ 255 ∧ s.argReg.toNat ≤ 65535)) := by decide
theorem witness_OutOfRangeExchangesDoNothing :
    65535 < (operands 0 0 65536 0).argCnt.toNat ∧ 65535 < (operands 0 65536 0 0).argReg.toNat ∧
    255 < (operands 256 0 0 0).argDev.toNat := by decide
theorem witness_FrameRowsBuildTheirFrame :
    (encode (.reqRd 4 0 1 0x84 0x5F)).length = 8 ∧ (Instr.reqRd 4 0 1 0x84 0x5F).wellFormed = true ∧
    State.reset.txbuf.wf := by decide
theorem witness_BuiltRequestsAreWellFormed :
    let s := operands 255 65535 65535 1
    s.txbuf.wf ∧ s.argDev.toNat ≤ 255 ∧ s.argReg.toNat ≤ 65535 ∧ s.argCnt.toNat ≤ 65535 := by decide
theorem witness_ValidTestsTheTrailer :
    ([0xFF] = rxBytes (holding [] [0xFF]) ∧ ([0xFF] : List Byte).length < 2) ∧
    ([0xFF, 0xFF] = rxBytes (holding [] [0xFF, 0xFF]) ∧ ([0xFF, 0xFF] : List Byte) = [] ++ [0xFF, 0xFF]) := by decide
theorem witness_EchoComparesByteForByte :
    (let s := holding [1, 2] [1, 2]
     s.rxlen = s.txlen ∧ ∀ i < s.txlen.toNat, s.rxbuf.read i = s.txbuf.read i) ∧
    (let s := holding [1, 2] [1, 3]
     ¬(s.rxlen = s.txlen ∧ ∀ i < s.txlen.toNat, s.rxbuf.read i = s.txbuf.read i)) := by decide
/-- TX.PUT at the last free index stores there and nowhere else. -/
theorem witness_InstructionsStoreNowhereElse :
    let s := holding [1, 2, 3, 4, 5, 6, 7] []
    resetQuiet s ∧ (∃ t, exec .txPut s = .next t) ∧ storesTx .txPut s 7 ∧ ¬storesTx .txPut s 6 ∧ ¬storesRx .txPut s 7 := by
  refine ⟨fun l h => (by cases h), ⟨_, rfl⟩, ⟨by decide, by decide⟩, fun h => ?_, fun h => h⟩
  exact absurd h.2 (by decide)
theorem witness_StartStepOpensThePort :
    (let s := { underExchange .idle [.ok] [] [] with port := 1 }
     s.resetPin = [] ∧ s.busy = true ∧ s.running = some .xchg ∧ s.phase = .idle ∧ s.port.toNat < 2 ∧ s.opens = .ok :: []) ∧
    (let s := underExchange .idle [.fail] [] []
     s.resetPin = [] ∧ s.busy = true ∧ s.running = some .xchg ∧ s.phase = .idle ∧ s.port.toNat < 2 ∧
      s.opens = .fail :: []) ∧
    (let s := { underExchange .idle [] [] [] with port := 2 }
     s.resetPin = [] ∧ s.busy = true ∧ s.running = some .xchg ∧ s.phase = .idle ∧ 2 ≤ s.port.toNat) := by decide
theorem witness_TransmitStepSendsTheNextByte :
    (let s := { underExchange .tx [] [.ok] [] with txidx := 1 }
     s.resetPin = [] ∧ s.busy = true ∧ s.running = some .xchg ∧ s.phase = .tx ∧ s.txidx.toNat < s.txlen.toNat ∧
      s.sends = .ok :: []) ∧
    (let s := underExchange .tx [] [.fail] []
     s.resetPin = [] ∧ s.busy = true ∧ s.running = some .xchg ∧ s.phase = .tx ∧ s.txidx.toNat < s.txlen.toNat ∧
      s.sends = .fail :: []) := by decide
theorem witness_TurnaroundStartsListening :
    let s := { underExchange .tx [] [] [] with txidx := 2 }
    s.resetPin = [] ∧ s.busy = true ∧ s.running = some .xchg ∧ s.phase = .tx ∧ s.txidx = s.txlen := by decide
theorem witness_ReceiveStepStoresTheByte :
    (let s := { underExchange .rx [] [] [.byte 0x5A] with rxlen := 999 }
     s.resetPin = [] ∧ s.busy = true ∧ s.running = some .xchg ∧ s.phase = .rx ∧ s.rxlen.toNat < 1000 ∧
      s.events = .byte 0x5A :: []) ∧
    (let s := underExchange .rx [] [] [.fault]
     s.resetPin = [] ∧ s.busy = true ∧ s.running = some .xchg ∧ s.phase = .rx ∧ s.rxlen.toNat < 1000 ∧
      s.events = .fault :: []) := by decide
theorem witness_WaitEndsAtBoundOrTimeout :
    (let s := { underExchange .rx [] [] [] with rxlen := 1000 }
     s.resetPin = [] ∧ s.busy = true ∧ s.running = some .xchg ∧ s.phase = .rx ∧ s.rxlen.toNat = 1000) ∧
    (let s := { underExchange .rx [] [] [.timeout] with rxlen := 3 }
     s.resetPin = [] ∧ s.busy = true ∧ s.running = some .xchg ∧ s.phase = .rx ∧ s.rxlen.toNat < 1000 ∧
      s.events = .timeout :: []) := by decide
theorem witness_ReceiverIsOffOutsideRx :
    let s := underExchange .tx [] [.ok] [.byte 1]
    resetLevel s = false ∧ s.busy = true ∧ s.phase ≠ .rx ∧ after (step s) (fun t => t.events) = some [.byte 1] := by decide
theorem witness_XchgReturnsTheResponse :
    atRest State.reset ∧ State.reset.port.toNat < 2 ∧ (List.replicate 1000 (0xAB : Byte)).length ≤ 1000 ∧
    State.reset.rxbuf.wf := ⟨reset_atRest, by decide, by rw [List.length_replicate], by decide⟩
theorem witness_RdregsChecksTheResponse :
    let s := operands 255 65535 65535 0
    atRest s ∧ s.rxbuf.wf ∧ operandsInRange .rdregs s ∧ s.port.toNat < 2 ∧ ([] : List Byte).length ≤ 1000 :=
  ⟨⟨rfl, rfl, rfl⟩, by decide, ⟨by decide, by decide, by decide⟩, by decide, by decide⟩
/-- For WrcoilChecksTheResponse and WrcoilOkExactlyOnTheEcho. -/
theorem witness_WrcoilChecksTheResponse :
    let s := operands 255 65535 99999 1
    atRest s ∧ s.rxbuf.wf ∧ s.txbuf.wf ∧ operandsInRange .wrcoil s ∧ s.port.toNat < 2 ∧ ([] : List Byte).length ≤ 1000 :=
  ⟨⟨rfl, rfl, rfl⟩, by decide, by decide, ⟨by decide, by decide⟩, by decide, by decide⟩
/-- For RdregsOkExactlyOnAValidResponse: a response it holds valid, and one it does not. -/
theorem witness_RdregsOkExactlyOnAValidResponse :
    (let s := operands 4 0 1 0
     atRest s ∧ s.rxbuf.wf ∧ operandsInRange .rdregs s ∧ s.port.toNat < 2) ∧
    validFrame [0x04, 0x03, 0x43, 0x71] = true ∧ validFrame [0x04, 0x03, 0x43, 0x72] = false :=
  ⟨⟨⟨rfl, rfl, rfl⟩, by decide, ⟨by decide, by decide, by decide⟩, by decide⟩, by decide, by decide⟩
/-- Each kind of fault, at the last byte it can come at. -/
theorem witness_TransportFaultReleasesThePort :
    let s := operands 4 0 1 0
    atRest s ∧ operandsInRange .rdregs s ∧ outcomePossible (requestReady .rdregs s) .openFail ∧
    outcomePossible (requestReady .rdregs s) (.txFail 7) ∧
    outcomePossible (requestReady .rdregs s) (.rxFault (List.replicate 999 0x00)) ∧
    (∀ r, ExchangeOutcome.txFail 7 ≠ .response r) :=
  ⟨⟨rfl, rfl, rfl⟩, ⟨by decide, by decide, by decide⟩, trivial, ⟨by decide, by decide⟩,
    ⟨by decide, by rw [List.length_replicate]; decide⟩, fun _ h => by cases h⟩
theorem witness_MissingPortFailsUnasked :
    let s := { operands 4 0 1 0 with port := 2 }
    s.resetPin = [] ∧ atRest s ∧ operandsInRange .rdregs s ∧ 2 ≤ s.port.toNat :=
  ⟨rfl, ⟨rfl, rfl, rfl⟩, ⟨by decide, by decide, by decide⟩, by decide⟩
/-- For EveryExchangeIsOneOfFourOutcomes and EveryExchangeEndsReleased. -/
theorem witness_EveryExchangeIsOneOfFourOutcomes :
    let s := operands 1 0 0 1
    atRest s ∧ s.rxbuf.wf ∧ operandsInRange .wrcoil s ∧ resetQuiet s :=
  ⟨⟨rfl, rfl, rfl⟩, by decide, ⟨by decide, by decide⟩, fun _ h => by cases h⟩
theorem witness_SingleStepsReachTheCommandsEnd :
    atRest State.reset ∧ operandsInRange .xchg State.reset ∧ ∃ t, exec (exchangeInstr .xchg) State.reset = .next t :=
  ⟨reset_atRest, trivial, _, rfl⟩

/-- The invariant holds in the middle of an exchange as well as between commands. -/
theorem inv_reset : StateInv State.reset := by constructor <;> decide
theorem inv_receiving :
    StateInv { underExchange .rx [] [] [.byte 1] with txidx := 2, rxbuf := [(0, 0x5A)], rxlen := 1 } := by
  constructor <;> decide
theorem witness_StepKeepsTheInvariant :
    let s := { underExchange .rx [] [] [.byte 1] with txidx := 2, rxbuf := [(0, 0x5A)], rxlen := 1 }
    StateInv s ∧ after (step s) (fun t => t.rxlen) = some 2 := ⟨inv_receiving, by decide⟩
theorem witness_StatusReadsZeroBetweenCommands : StateInv State.reset ∧ State.reset.busy = false := ⟨inv_reset, rfl⟩
theorem witness_TemperatureSignRecovery :
    (0x1F : Byte).toNat * 256 + (0x40 : Byte).toNat ≤ 8000 ∧ 8001 ≤ (0x1F : Byte).toNat * 256 + (0x41 : Byte).toNat := by
  decide
theorem witness_PumpOffIsAttemptedAfterEveryOn :
    let h : HostParams := { sensorDev := 4, sensorPort := 0, pumpDev := 255, pumpCoil := 65535, pumpPort := 1 }
    StateInv State.reset ∧ State.reset.busy = false ∧ resetQuiet State.reset ∧
    h.pumpDev.toNat ≤ 255 ∧ h.pumpCoil.toNat ≤ 65535 :=
  ⟨inv_reset, rfl, reset_quiet, by decide, by decide⟩

end Sys2Proof.Tests
end

section
/-! PROOFS. The register table and STATUS (10_state R33, R42), the values after reset (R41), what every command reports
(R34, R35), and the invariant of the machine (R43) kept by every step. -/

namespace Sys2Proof.Machine

/-! ### STATUS and the windows -/

/-- STATUS as a number: BUSY has the weight 1, CONN 2, PHASE 4 (10_state R33). -/
theorem statusByte_setWidth (s : State) :
    (statusByte s).setWidth 32 =
      BitVec.ofNat 32 (s.busy.toNat + 2 * s.conn.toNat + 4 * (phaseCode s.phase).toNat) := by
  unfold statusByte
  cases s.busy <;> cases s.conn <;> cases s.phase <;> rfl

/-- STATUS field by field. -/
theorem statusByte_fields (s : State) :
    (statusByte s).getLsbD 0 = s.busy ∧ (statusByte s).getLsbD 1 = s.conn ∧
      (statusByte s).extractLsb' 2 2 = phaseCode s.phase ∧ (statusByte s).extractLsb' 4 4 = 0 := by
  unfold statusByte
  cases s.busy <;> cases s.conn <;> cases s.phase <;> exact ⟨rfl, rfl, rfl, rfl⟩

/-- A window below the length shows the buffer (10_state R37). -/
theorem txWindow_below {s : State} (h : s.idx.toNat < s.txlen.toNat) : txWindow s = s.txbuf.read s.idx.toNat :=
  if_pos h

theorem rxWindow_below {s : State} (h : s.idx.toNat < s.rxlen.toNat) : rxWindow s = s.rxbuf.read s.idx.toNat :=
  if_pos h

/-! ### What a command reports -/

/-- Bit 0 is OK's, and there is no error bit above 6 (10_state R34). -/
theorem kindCode_bounds (k : ErrorKind) : 1 ≤ kindCode k ∧ kindCode k ≤ 6 := by cases k <;> decide

theorem getLsbD_kindBit (k : ErrorKind) (j : Nat) : (kindBit k).getLsbD j = true ↔ kindCode k = j := by
  have := kindCode_bounds k
  simp [kindBit]; omega

/-- A bit of RESULT is set when the kind with that code was raised (60_exceptions R248). -/
theorem getLsbD_resultOf {ks : List ErrorKind} (h : ks ≠ []) (j : Nat) :
    (resultOf ks).getLsbD j = true ↔ ∃ k ∈ ks, kindCode k = j := by
  rw [resultOf, if_neg h]
  clear h
  induction ks with
  | nil => simp
  | cons k ks ih =>
    simp only [List.foldr_cons, BitVec.getLsbD_or, Bool.or_eq_true, getLsbD_kindBit, ih, List.exists_mem_cons_iff]

theorem resultLegal_iff (r : Byte) :
    resultLegal r = true ↔ r.getLsbD 7 = false ∧ (r.getLsbD 0 = true ↔ r.extractLsb' 1 6 = 0) := by
  simp only [resultLegal, errorBits, Bool.and_eq_true, Bool.not_eq_true', beq_iff_eq]
  rw [Bool.eq_iff_iff (a := r.getLsbD 0), beq_iff_eq]

/-- Whatever a command raised, its RESULT is legal: a kind's code is 1 to 6, so the first kind sets an error bit, and no
kind sets OK or bit 7. -/
theorem resultLegal_resultOf (ks : List ErrorKind) : resultLegal (resultOf ks) = true := by
  cases ks with
  | nil => decide
  | cons k ks =>
    have bit := getLsbD_resultOf (List.cons_ne_nil k ks)
    have clear : ∀ j, j = 0 ∨ j = 7 → (resultOf (k :: ks)).getLsbD j = false := by
      intro j hj
      rw [← Bool.not_eq_true, bit]
      rintro ⟨k', -, e⟩
      have := kindCode_bounds k'
      omega
    have error : (resultOf (k :: ks)).extractLsb' 1 6 ≠ 0 := by
      intro h
      obtain ⟨lo, hi⟩ := kindCode_bounds k
      have set := (bit (kindCode k)).2 ⟨k, List.mem_cons_self, rfl⟩
      have unset := congrArg (BitVec.getLsbD · (kindCode k - 1)) h
      simp [show kindCode k - 1 < 6 by omega,
        show 1 + (kindCode k - 1) = kindCode k by omega, set] at unset
    rw [resultLegal_iff]
    exact ⟨clear 7 (.inr rfl), iff_of_false (Bool.eq_false_iff.1 (clear 0 (.inl rfl))) error⟩

/-! ### How an instruction ends -/

/-- A sequencer step goes on with the exchange or ends the command. -/
theorem sequencerStep_goes_on_or_finishes (c : ExchangeCmd) (s : State) :
    ((sequencerStep c s).busy = s.busy ∧ (sequencerStep c s).running = s.running) ∨
      ∃ ks u, sequencerStep c s = finishCommand ks u := by
  unfold sequencerStep
  split
  · rcases exchangeStart_cases s with ⟨o, k, _, e⟩ | ⟨o, k, e⟩ <;> rw [e]
    · exact .inl ⟨rfl, rfl⟩
    · exact .inr ⟨_, _, rfl⟩
  · split
    · rcases exchangeTransmit_cases s with ⟨o, k, e⟩ | ⟨o, k, e⟩ <;> rw [e]
      · exact .inl ⟨rfl, rfl⟩
      · exact .inr ⟨_, _, rfl⟩
    · exact .inl ⟨rfl, rfl⟩
  · rcases exchangeReceive_cases c s with ⟨o, k, b, _, e⟩ | ⟨o, k, e⟩ | ⟨o, k, _, e⟩ <;> rw [e]
    · exact .inl ⟨rfl, rfl⟩
    · exact .inr ⟨_, _, rfl⟩
    · exact .inr ⟨_, _, rfl⟩

/-- An exchange whose reset input is not asserted, between two ticks or after the last one. -/
def underWayOrFinished (s : State) : Prop := resetQuiet s ∧ (underWay s ∨ ∃ ks u, s = finishCommand ks u)

theorem sequencerTick_underWayOrFinished {s : State} (hb : s.busy = true) (h : underWayOrFinished s) :
    underWayOrFinished (sequencerTick s) := by
  obtain ⟨hq, ⟨-, hr⟩ | ⟨ks, u, rfl⟩⟩ := h
  · obtain ⟨c, hc⟩ := Option.isSome_iff_exists.1 hr
    rw [sequencerTick_quiet hq hc]
    refine ⟨?_, (sequencerStep_goes_on_or_finishes c (nextSample s)).imp_left fun ⟨eb, er⟩ => ?_⟩
    · unfold resetQuiet
      rw [(sequencerStep_hostSide c (nextSample s)).2]
      exact resetQuiet_nextSample hq
    · exact ⟨eb.trans hb, by rw [er]; exact hr⟩
  · cases hb

/-- With reset not asserted an exchange ends where a command ends: in `finishCommand` (42_transactor R187). -/
theorem sequencerRun_finishes {c : ExchangeCmd} {s : State} (hq : resetQuiet s) (hr : atRest s) :
    ∃ ks u, sequencerRun ((requestReady c s).txlen.toNat + 1003) (exchangeBegun c s) = finishCommand ks u := by
  have start : underWay (exchangeBegun c s) ∧ resetQuiet (exchangeBegun c s) ∧ (exchangeBegun c s).phase = .idle ∧
      (exchangeBegun c s).txlen = (requestReady c s).txlen := by
    rw [requestReady_beginCommand]
    cases c <;> exact ⟨⟨rfl, rfl⟩, hq, hr.2.2, rfl⟩
  obtain ⟨hu, hq', hp, hl⟩ := start
  have ends := sequencerRun_ends ((requestReady c s).txlen.toNat + 1003) (exchangeBegun c s)
    (.inr ⟨hu, by simp only [ticksLeft, hp, hl, le_refl]⟩)
  obtain ⟨-, hu | hf⟩ := sequencerRun_induction (P := underWayOrFinished)
    (fun _ => sequencerTick_underWayOrFinished) ((requestReady c s).txlen.toNat + 1003) _ ⟨hq', .inl hu⟩
  · rw [hu.1] at ends; cases ends
  · exact hf

/-- An exchange command, on any operands, ends in `finishCommand`. -/
theorem exec_exchange_finishes (c : ExchangeCmd) {s : State} (hq : resetQuiet s) (hr : atRest s) :
    ∃ ks u, exec (exchangeInstr c) s = .next (finishCommand ks u) := by
  by_cases h : operandsInRange c s
  · obtain ⟨ks, u, e⟩ := sequencerRun_finishes (c := c) hq hr
    exact ⟨ks, u, by rw [exec_exchange h, e]⟩
  · exact ⟨[.invalidArgument], beginCommand s, by rw [exec_exchange_bad h, finishCommand_argument]; rfl⟩

/-- Every instruction run at rest with reset not asserted ends in `finishCommand`. -/
theorem exec_finishes (i : Instr) {s : State} (hq : resetQuiet s) (hr : atRest s) :
    ∃ ks u, exec i s = .next (finishCommand ks u) := by
  cases i with
  | xchg => exact exec_exchange_finishes .xchg hq hr
  | rdregs => exact exec_exchange_finishes .rdregs hq hr
  | wrcoil => exact exec_exchange_finishes .wrcoil hq hr
  | _ => exact ⟨_, _, rfl⟩

/-! ### The invariant between two commands -/

/-- The part of the invariant that speaks of the buffers and their lengths. -/
structure DataInv (s : State) : Prop where
  txWf : s.txbuf.wf
  rxWf : s.rxbuf.wf
  txInside : ∀ c ∈ s.txbuf, c.1 < Config.txMax
  rxInside : ∀ c ∈ s.rxbuf, c.1 < Config.rxMax
  txlenBound : s.txlen.toNat ≤ Config.txMax
  txidxBound : s.txidx.toNat ≤ s.txlen.toNat
  rxlenBound : s.rxlen.toNat ≤ Config.rxMax
  payWindow : s.paylen = 0 ∨ s.paylen.toNat + 5 = s.rxlen.toNat

/-- What a command's body may rely on and must keep: the buffers are in order and the port is released. -/
structure Released (s : State) : Prop extends DataInv s where
  conn : s.conn = false
  phase : s.phase = .idle

theorem StateInv.data {s : State} (h : StateInv s) : DataInv s := { h with }

theorem StateInv.released {s : State} (h : StateInv s) (hp : s.phase = .idle) : Released s :=
  { h with
    conn := by
      have := h.connPhase
      rw [hp] at this
      simpa using this
    phase := hp }

/-- A command ends with the invariant whatever it raised (60_exceptions R248). -/
theorem Released.finishCommand {s : State} (h : Released s) (ks : List ErrorKind) : StateInv (finishCommand ks s) :=
  { h with
    connPhase := by simp [h.conn, h.phase]
    busyRunning := rfl
    idleReleased := fun _ => h.phase
    resultReport := .inr (resultLegal_resultOf ks)
    causeAgrees := rfl
    busyCleared := fun hb => nomatch hb
    txPhase := fun hp => by simp [h.phase] at hp
    rxPhase := fun hp => by simp [h.phase] at hp }

/-- An exchange starts with the invariant. -/
theorem Released.running {s : State} (h : Released s) (c : ExchangeCmd) (hb : s.busy = true) (hr : s.result = 0)
    (hc : s.cause = 0) : StateInv { s with running := some c } :=
  { h with
    connPhase := by simp [h.conn, h.phase]
    busyRunning := hb
    idleReleased := fun _ => h.phase
    resultReport := .inl hr
    causeAgrees := by simp only [hr, hc]; decide
    busyCleared := fun _ => hr
    txPhase := fun hp => by simp [h.phase] at hp
    rxPhase := fun hp => by simp [h.phase] at hp }

/-- Releasing the port leaves the buffers in order. -/
theorem DataInv.releasePort {s : State} (h : DataInv s) : Released (releasePort s) :=
  { h with conn := rfl, phase := rfl }

theorem Released.beginCommand {s : State} (h : Released s) : Released (beginCommand s) := { h with }

theorem Released.setCrc {s : State} (h : Released s) (acc : Byte × Byte) : Released (setCrc acc s) := { h with }

/-- The payload window of a response (41_codec R149). -/
theorem Released.withPayload {s : State} (h : Released s) {n : Half}
    (hn : n = s.paylen ∨ n = 0 ∨ n = BitVec.ofNat 16 (payloadLength s.rxlen.toNat)) :
    Released { s with paylen := n } where
  toDataInv := { h with
    payWindow := by
      rcases hn with rfl | rfl | rfl
      · exact h.payWindow
      · exact .inl rfl
      · have := s.rxlen.isLt
        by_cases h5 : 5 ≤ s.rxlen.toNat
        · refine .inr ?_
          simp only [payloadLength, if_pos h5]
          rw [toNat_ofNat_half (by omega)]
          omega
        · exact .inl (by simp [payloadLength, h5]) }
  conn := h.conn
  phase := h.phase

theorem Released.appendTx {s : State} (h : Released s) (b : Byte) (hl : s.txlen.toNat < Config.txMax) :
    Released (appendTx b s) := by
  have hn : (BitVec.ofNat 16 (s.txlen.toNat + 1)).toNat = s.txlen.toNat + 1 := by
    have : s.txlen.toNat < 8 := hl
    exact toNat_ofNat_half (by omega)
  have := h.txidxBound
  exact { h with
    txWf := Memory.wf_write h.txWf
    txInside := Memory.write_inside h.txInside hl
    txlenBound := by simp only [appendTx_txlen, hn]; omega
    txidxBound := by simp only [appendTx_txlen, appendTx_txidx, hn]; omega }

/-- A byte stored below the bound of RXBUF, with no payload window. -/
theorem DataInv.appendRx {s : State} (h : DataInv s) (b : Byte) (hl : s.rxlen.toNat < Config.rxMax) :
    DataInv { appendRx b s with paylen := 0 } := by
  have hn : (BitVec.ofNat 16 (s.rxlen.toNat + 1)).toNat = s.rxlen.toNat + 1 := by
    have : s.rxlen.toNat < 1000 := hl
    exact toNat_ofNat_half (by omega)
  exact { h with
    rxWf := Memory.wf_write h.rxWf
    rxInside := Memory.write_inside h.rxInside hl
    rxlenBound := by simp only [appendRx_rxlen, hn]; omega
    payWindow := .inl rfl }

theorem Released.storeRequest {s : State} (h : Released s) {body : List Byte} (hl : body.length = 6) :
    Released (storeRequest body s) :=
  { h with
    txWf := Memory.wf_writeAll _ h.txWf
    txInside := Memory.writeAll_inside _ h.txInside (by simp [hl])
    txlenBound := le_refl 8
    txidxBound := h.txidxBound.trans h.txlenBound }

/-! ### Commands of one atomic step -/

/-- A body that keeps the buffers in order and the port released makes a command that keeps the invariant. -/
theorem stateInv_runAtomic {body : State → List ErrorKind × State} {s : State} (h : Released s)
    (hk : ∀ t, Released t → Released (body t).2) : StateInv (runAtomic body s) :=
  (hk _ h.beginCommand).finishCommand _

theorem released_txPutBody {s : State} (h : Released s) : Released (txPutBody s).2 := by
  unfold txPutBody
  split
  · exact h
  · exact h.appendTx s.data (by omega)

theorem released_rxPutBody {s : State} (h : Released s) : Released (rxPutBody s).2 := by
  unfold rxPutBody
  split
  · exact h
  · exact { h.appendRx s.data (by omega) with conn := h.conn, phase := h.phase }

theorem released_bldRdBody {s : State} (h : Released s) : Released (bldRdBody s).2 := by
  unfold bldRdBody
  split
  · exact h.storeRequest rfl
  · exact h

theorem released_bldWcBody {s : State} (h : Released s) : Released (bldWcBody s).2 := by
  unfold bldWcBody
  split
  · exact h.storeRequest rfl
  · exact h

theorem released_validBody {s : State} (h : Released s) : Released (validBody s).2 := by
  unfold validBody
  rw [checkTrailer_state]
  split
  · exact (h.setCrc _).withPayload (.inr (.inr rfl))
  · exact (h.setCrc _).withPayload (.inr (.inl rfl))

theorem released_echoBody {s : State} (h : Released s) : Released (echoBody s).2 := by
  unfold echoBody
  split <;> exact h

/-! ### The sequencer -/

theorem stateInv_endOfWait {s : State} (c : ExchangeCmd) (h : DataInv s) : StateInv (endOfWait c s) := by
  obtain ⟨a, n, e, hn⟩ := afterExchange_state c (releasePort s)
  unfold endOfWait
  rw [e]
  exact ((h.releasePort.setCrc a).withPayload hn).finishCommand _

theorem stateInv_exchangeStart {s : State} (h : StateInv s) (hb : s.busy = true) (hp : s.phase = .idle) :
    StateInv (exchangeStart s) := by
  have cleared (o : List Answer) (k : Nat) :
      Released { s with rxlen := 0, paylen := 0, txidx := 0, opens := o, tick := k } :=
    { h.released hp with txidxBound := Nat.zero_le _, rxlenBound := Nat.zero_le _, payWindow := .inl rfl }
  rcases exchangeStart_cases s with ⟨o, k, -, e⟩ | ⟨o, k, e⟩ <;> rw [e]
  · exact { cleared o k, h with
      connPhase := by simp
      idleReleased := fun hf => by simp [hb] at hf
      txPhase := fun _ => ⟨rfl, rfl⟩
      rxPhase := fun hf => nomatch hf }
  · exact (cleared o k).finishCommand _

theorem stateInv_exchangeTransmit {s : State} (h : StateInv s) (hp : s.phase = .tx)
    (hi : s.txidx.toNat < s.txlen.toNat) : StateInv (exchangeTransmit s) := by
  rcases exchangeTransmit_cases s with ⟨o, k, e⟩ | ⟨o, k, e⟩ <;> rw [e]
  · have hn : (BitVec.ofNat 16 (s.txidx.toNat + 1)).toNat = s.txidx.toNat + 1 := toNat_ofNat_half (by omega)
    exact { h with
      txidxBound := by simp only [hn]; omega
      rxPhase := fun hf => by simp [hp] at hf }
  · have sent : DataInv { s with sends := o, tick := k } := { h with }
    exact sent.releasePort.finishCommand _

/-- The turnaround comes when the whole request has been sent (42_transactor R175). -/
theorem stateInv_exchangeTurnaround {s : State} (h : StateInv s) (hb : s.busy = true) (hp : s.phase = .tx)
    (hi : ¬s.txidx.toNat < s.txlen.toNat) : StateInv (exchangeTurnaround s) := by
  have sent : s.txidx = s.txlen := BitVec.eq_of_toNat_eq (by have := h.txidxBound; omega)
  exact { h with
    connPhase := by simp [exchangeTurnaround, h.connPhase, hp]
    idleReleased := fun hf => by simp [exchangeTurnaround, hb] at hf
    txPhase := fun hf => nomatch hf
    rxPhase := fun _ => ⟨sent, (h.txPhase hp).2⟩ }

theorem stateInv_exchangeReceive {s : State} (c : ExchangeCmd) (h : StateInv s) (hp : s.phase = .rx) :
    StateInv (exchangeReceive c s) := by
  rcases exchangeReceive_cases c s with ⟨o, k, b, hl, e⟩ | ⟨o, k, e⟩ | ⟨o, k, -, e⟩ <;> rw [e]
  · have stored := h.data.appendRx b hl
    exact { stored, h with
      payWindow := .inl (h.rxPhase hp).2
      txPhase := fun hf => by simp [hp] at hf }
  · have waited : DataInv { s with events := o, tick := k } := { h with }
    exact stateInv_endOfWait c waited
  · have dropped : DataInv { s with events := o, tick := k, rxlen := 0 } :=
      { h with rxlenBound := Nat.zero_le _, payWindow := .inl (h.rxPhase hp).2 }
    exact dropped.releasePort.finishCommand _

theorem stateInv_sequencerStep {s : State} (c : ExchangeCmd) (h : StateInv s) (hb : s.busy = true) :
    StateInv (sequencerStep c s) := by
  cases hp : s.phase with
  | idle =>
    rw [sequencerStep_idle hp]
    exact stateInv_exchangeStart h hb hp
  | tx =>
    by_cases hi : s.txidx.toNat < s.txlen.toNat
    · rw [sequencerStep_transmit hp hi]
      exact stateInv_exchangeTransmit h hp hi
    · rw [sequencerStep_turnaround hp hi]
      exact stateInv_exchangeTurnaround h hb hp hi
  | rx =>
    rw [sequencerStep_receive hp]
    exact stateInv_exchangeReceive c h hp

/-! ### Reset and the host's side -/

theorem stateInv_reset : StateInv State.reset := by constructor <;> decide

theorem stateInv_applyReset (s : State) : StateInv (applyReset s) := { stateInv_reset with }

theorem stateInv_nextSample {s : State} (h : StateInv s) : StateInv (nextSample s) := { h with }

/-- No register that the host writes is in the invariant. -/
theorem stateInv_writeRegister {s : State} (n v : Nat) (h : StateInv s) : StateInv (writeRegister n v s) := by
  unfold writeRegister
  split <;> exact { h with }

/-! ### Whole commands -/

/-- A tick of an exchange keeps the invariant, whether reset is asserted or not. -/
theorem stateInv_sequencerTick {s : State} (hb : s.busy = true) (h : StateInv s) : StateInv (sequencerTick s) := by
  have h' := stateInv_nextSample h
  unfold sequencerTick
  split
  · exact stateInv_applyReset _
  · split
    · exact stateInv_sequencerStep _ h' hb
    · exact h'

/-- An exchange command keeps the invariant, on operands in range and out of range. -/
theorem stateInv_exec_exchange {s t : State} (c : ExchangeCmd) (h : Released s)
    (he : exec (exchangeInstr c) s = .next t) : StateInv t := by
  by_cases hr : operandsInRange c s
  · rw [exec_exchange hr] at he
    cases he
    have ready : Released (requestReady c (beginCommand s)) := by
      cases c with
      | xchg => exact h.beginCommand
      | rdregs => exact h.beginCommand.storeRequest (body := readRequestBody _ _ _) rfl
      | wrcoil => exact h.beginCommand.storeRequest (body := coilRequestBody _ _ _) rfl
    refine sequencerRun_induction (fun _ => stateInv_sequencerTick) _ _ (ready.running c ?_ ?_ ?_) <;> cases c <;> rfl
  · rw [exec_exchange_bad hr] at he
    cases he
    have := h.beginCommand.finishCommand [.invalidArgument]
    rwa [finishCommand_argument] at this

/-- Every instruction keeps the invariant when it is run with the port released. -/
theorem stateInv_exec {s t : State} (i : Instr) (h : Released s) (he : exec i s = .next t) : StateInv t := by
  cases i with
  | xchg => exact stateInv_exec_exchange .xchg h he
  | rdregs => exact stateInv_exec_exchange .rdregs h he
  | wrcoil => exact stateInv_exec_exchange .wrcoil h he
  | crcInit => cases he; exact stateInv_runAtomic h fun _ ht => ht.setCrc _
  | crcUpd => cases he; exact stateInv_runAtomic h fun _ ht => ht.setCrc _
  | txClr =>
    cases he
    exact stateInv_runAtomic h fun _ ht => { ht with txlenBound := Nat.zero_le _, txidxBound := le_refl 0 }
  | txPut => cases he; exact stateInv_runAtomic h fun _ => released_txPutBody
  | rxClr =>
    cases he
    exact stateInv_runAtomic h fun _ ht => { ht with rxlenBound := Nat.zero_le _, payWindow := .inl rfl }
  | rxPut => cases he; exact stateInv_runAtomic h fun _ => released_rxPutBody
  | bldRd => cases he; exact stateInv_runAtomic h fun _ => released_bldRdBody
  | bldWc => cases he; exact stateInv_runAtomic h fun _ => released_bldWcBody
  | valid => cases he; exact stateInv_runAtomic h fun _ => released_validBody
  | echo => cases he; exact stateInv_runAtomic h fun _ => released_echoBody
  | reqRd dev reg count lo hi =>
    cases he
    have loaded : Released (loadReadOperands dev reg count s) := { h with }
    exact stateInv_runAtomic loaded fun _ => released_bldRdBody
  | reqWcOn dev reg lo hi =>
    cases he
    have loaded : Released (loadCoilOperands dev reg 1 s) := { h with }
    exact stateInv_runAtomic loaded fun _ => released_bldWcBody
  | reqWcOff dev reg lo hi =>
    cases he
    have loaded : Released (loadCoilOperands dev reg 0 s) := { h with }
    exact stateInv_runAtomic loaded fun _ => released_bldWcBody

/-! ### The host's moves -/

theorem stateInv_hostRead {s t : State} (n : Nat) (h : StateInv s) (he : hostRead n s = .next t) : StateInv t := by
  unfold hostRead at he
  split at he <;> cases he
  exact { h with }

theorem stateInv_runCommandWord {s t : State} (op : Byte) (h : Released s) (he : runCommandWord op s = .next t) :
    StateInv t := by
  unfold runCommandWord at he
  split at he
  · exact stateInv_exec _ h he
  · cases he
    exact stateInv_runAtomic h fun _ ht => ht

theorem stateInv_hostWrite {s t : State} (n v : Nat) (h : StateInv s) (hp : s.phase = .idle)
    (he : hostWrite n v s = .next t) : StateInv t := by
  unfold hostWrite at he
  split at he
  · cases he
  · split at he
    · cases he
    · split at he
      · exact stateInv_runCommandWord _ (h.released hp) he
      · cases he
        exact stateInv_writeRegister n v h

theorem stateInv_hostRequest {s t : State} (bytes : List Byte) (h : Released s) (he : hostRequest bytes s = .next t) :
    StateInv t := by
  unfold hostRequest at he
  split at he
  · split at he
    · exact stateInv_exec _ h he
    · cases he
  · cases he

/-- A move of the host, taken between two commands, keeps the invariant. -/
theorem stateInv_hostMove {s t : State} (m : HostMove) (h : StateInv s) (hp : s.phase = .idle)
    (he : hostMove m s = .next t) : StateInv t := by
  cases m with
  | read n => exact stateInv_hostRead n h he
  | write n v => exact stateInv_hostWrite n v h hp he
  | request bytes => exact stateInv_hostRequest bytes (h.released hp) he

end Sys2Proof.Machine

/-! ### The statements -/

namespace Sys2Proof.Proofs

open Sys2Proof Sys2Proof.Machine

/-- Settles O57: reset reaches a state with the invariant, and each part of a step, the sequencer's or the host's, keeps
it. -/
theorem stepKeepsTheInvariant : Obligations.StepKeepsTheInvariant := by
  intro s t h he
  rcases step_cases he with ⟨-, rfl⟩ | ⟨-, hb, c, -, rfl⟩ | ⟨-, -, -, rfl⟩ | ⟨-, hb, m, q, -, hm⟩
  · exact stateInv_applyReset _
  · exact stateInv_sequencerStep c (stateInv_nextSample h) hb
  · exact stateInv_nextSample h
  · have taken : StateInv { s with hostQueue := q, resetPin := s.resetPin.tail } := { h with }
    exact stateInv_hostMove m taken (h.idleReleased hb) hm

/-- Settles O17: every instruction ends in `finishCommand`, whose RESULT is legal whatever was raised. -/
theorem everyInstructionReports : Obligations.EveryInstructionReports := by
  intro i s t hq hr he
  obtain ⟨ks, u, e⟩ := exec_finishes i hq hr
  rw [e] at he
  cases he
  obtain ⟨h7, hok⟩ := (resultLegal_iff _).1 (resultLegal_resultOf ks)
  exact ⟨h7, hok, rfl⟩

/-- Settles O8: STATUS is its fields weighed, the windows show the buffers below the lengths, and every other row of the
table is the register itself. -/
theorem registersReadByNumber : Obligations.RegistersReadByNumber := by
  refine ⟨fun s => ?_, rfl⟩
  refine ⟨rfl, congrArg some ((statusByte_setWidth s).trans ?_), rfl, rfl, rfl, rfl, rfl, rfl, rfl, rfl, rfl, rfl,
    rfl, rfl, rfl, rfl, rfl, rfl, fun h => ?_, fun h => ?_⟩
  · cases s.phase <;> rfl
  · exact congrArg (fun b => some (b.setWidth 32)) (txWindow_below h)
  · exact congrArg (fun b => some (b.setWidth 32)) (rxWindow_below h)

/-- Settles O9: the byte is `statusByte`, field by field. -/
theorem statusHasItsFields : Obligations.StatusHasItsFields := by
  intro s
  obtain ⟨hb, hc, hp, hz⟩ := statusByte_fields s
  refine ⟨statusByte s, rfl, hb, hc, hp.trans ?_, hz⟩
  cases s.phase <;> rfl

/-- Settles O14: each value is a field of `State.reset`. -/
theorem resetHoldsTheSpecifiedValues : Obligations.ResetHoldsTheSpecifiedValues := by
  unfold Obligations.ResetHoldsTheSpecifiedValues
  decide

/-- Settles O56: the buffers are empty, the lengths 0 and no command runs. -/
theorem resetSatisfiesTheInvariant : Obligations.ResetSatisfiesTheInvariant := stateInv_reset

/-- Settles O58: with BUSY = 0 the invariant has PHASE IDLE and so CONN = 0, and every field of STATUS is 0. -/
theorem statusReadsZeroBetweenCommands : Obligations.StatusReadsZeroBetweenCommands := by
  intro s h hb
  obtain ⟨-, hc, hp⟩ := h.released (h.idleReleased hb)
  refine ⟨congrArg some ((statusByte_setWidth s).trans ?_), h.payWindow⟩
  rw [hb, hc, hp]
  rfl

end Sys2Proof.Proofs
end

section
/-! PROOFS. The host's reads and writes of single registers (20_memory R61, 10_state R42), and which bytes of the two
buffers an instruction stores to (20_memory R63). -/

namespace Sys2Proof.Machine

/-! ### Host reads -/

/-- The register numbers end at 19 (10_state R42). -/
theorem readRegister_of_le {n : Nat} (h : n ≤ 19) (s : State) : ∃ v, readRegister n s = some v := by
  interval_cases n <;> exact ⟨_, rfl⟩

theorem readRegister_of_gt {n : Nat} (h : 19 < n) (s : State) : readRegister n s = none := by
  obtain ⟨k, rfl⟩ := Nat.exists_eq_add_of_le' h
  rfl

theorem hostRead_some {n : Nat} {v : Word} {s : State} (h : readRegister n s = some v) :
    hostRead n s = .next { s with reads := s.reads ++ [(n, v)] } := by
  rw [hostRead, h]

theorem hostRead_none {n : Nat} {s : State} (h : readRegister n s = none) :
    hostRead n s = .refused (.noSuchRegister n) := by
  rw [hostRead, h]

/-! ### Host writes -/

/-- A value of the register's width, written to a register other than CMD. -/
theorem hostWrite_register {n v w : Nat} (hw : regWidth n = some w) (hv : v < 2 ^ w) (hn : n ≠ 0) (s : State) :
    hostWrite n v s = .next (writeRegister n v s) := by
  simp only [hostWrite, hw, if_neg hv.not_ge, if_neg hn]

/-- A host write reaches the eight RW registers and no other field, each under its own number (10_state R42). -/
theorem writeRegister_eq (n v : Nat) (s : State) :
    writeRegister n v s =
      { s with
        argDev := if n = 4 then BitVec.ofNat 32 v else s.argDev
        argReg := if n = 5 then BitVec.ofNat 32 v else s.argReg
        argCnt := if n = 6 then BitVec.ofNat 32 v else s.argCnt
        argCoil := if n = 7 then BitVec.ofNat 1 v else s.argCoil
        data := if n = 8 then BitVec.ofNat 8 v else s.data
        port := if n = 9 then BitVec.ofNat 8 v else s.port
        baud := if n = 10 then BitVec.ofNat 32 v else s.baud
        idx := if n = 17 then BitVec.ofNat 16 v else s.idx } := by
  unfold writeRegister
  split
  case h_9 h4 h5 h6 h7 h8 h9 h10 h17 =>
    simp only [if_neg h4, if_neg h5, if_neg h6, if_neg h7, if_neg h8, if_neg h9, if_neg h10, if_neg h17]
  all_goals rfl

theorem writeRegister_readOnly {n : Nat} (hn : n ∉ [4, 5, 6, 7, 8, 9, 10, 17]) (v : Nat) (s : State) :
    writeRegister n v s = s := by
  rw [writeRegister_eq]
  simp only [List.mem_cons, List.not_mem_nil, not_or] at hn
  simp [hn]

/-- The register written reads the value written. -/
theorem readRegister_writeRegister_same {n v w : Nat} (hn : n ∈ [4, 5, 6, 7, 8, 9, 10, 17]) (hw : regWidth n = some w)
    (hv : v < 2 ^ w) (s : State) : readRegister n (writeRegister n v s) = some (BitVec.ofNat 32 v) := by
  simp only [List.mem_cons, List.not_mem_nil, or_false] at hn
  have zeroExtended : w ≤ 32 → (BitVec.ofNat w v).setWidth 32 = BitVec.ofNat 32 v :=
    fun h => BitVec.setWidth_ofNat_of_le_of_lt h hv
  rcases hn with rfl | rfl | rfl | rfl | rfl | rfl | rfl | rfl <;> cases hw <;>
    exact congrArg some (zeroExtended (by decide))

/-- Every other register but the two windows, which follow IDX, reads as before. -/
theorem readRegister_writeRegister_ne {m n : Nat} (h : m ≠ n) (h18 : m ≠ 18) (h19 : m ≠ 19) (v : Nat) (s : State) :
    readRegister m (writeRegister n v s) = readRegister m s := by
  have hn := h.symm
  rw [writeRegister_eq]
  unfold readRegister
  split <;> simp [statusByte, hn] at h18 h19 ⊢

/-! ### Stores to the buffers -/

/-- From `s` to `t` no byte of TXBUF changed outside the indices `tx`, and none of RXBUF outside `rx`. -/
def StoresWithin (tx rx : Nat → Prop) (s t : State) : Prop :=
  (∀ a, ¬tx a → t.txbuf.read a = s.txbuf.read a) ∧ (∀ a, ¬rx a → t.rxbuf.read a = s.rxbuf.read a)

theorem StoresWithin.of_eq {tx rx : Nat → Prop} {s t : State} (ht : t.txbuf = s.txbuf) (hr : t.rxbuf = s.rxbuf) :
    StoresWithin tx rx s t :=
  ⟨fun a _ => by rw [ht], fun a _ => by rw [hr]⟩

/-- A request of six bytes and its checksum stores to the indices 0 to 7 (41_codec R145, R146). -/
theorem storesWithin_storeRequest {tx rx : Nat → Prop} {body : List Byte} (hl : body.length = 6)
    (htx : ∀ a < Config.txMax, tx a) (s : State) : StoresWithin tx rx s (storeRequest body s) := by
  refine ⟨fun a ha => Memory.read_writeAll_outside _ (.inr ?_), fun _ _ => rfl⟩
  have outside : Config.txMax ≤ a := not_lt.1 (mt (htx a) ha)
  simpa [hl] using outside

theorem storesWithin_txPutBody (s : State) :
    StoresWithin (storesTx .txPut s) (storesRx .txPut s) s (txPutBody s).2 := by
  unfold txPutBody
  split
  · exact .of_eq rfl rfl
  · exact ⟨fun a ha => Memory.read_write_ne fun e => ha ⟨by omega, e⟩, fun _ _ => rfl⟩

theorem storesWithin_rxPutBody (s : State) :
    StoresWithin (storesTx .rxPut s) (storesRx .rxPut s) s (rxPutBody s).2 := by
  unfold rxPutBody
  split
  · exact .of_eq rfl rfl
  · exact ⟨fun _ _ => rfl, fun a ha => Memory.read_write_ne fun e => ha ⟨by omega, e⟩⟩

/-- VALID tests the buffers and stores to neither (41_codec R148). -/
theorem storesWithin_validBody (tx rx : Nat → Prop) (s : State) : StoresWithin tx rx s (validBody s).2 := by
  unfold validBody
  rw [checkTrailer_state]
  split <;> exact .of_eq rfl rfl

theorem storesWithin_echoBody (tx rx : Nat → Prop) (s : State) : StoresWithin tx rx s (echoBody s).2 := by
  unfold echoBody
  split <;> exact .of_eq rfl rfl

/-- The request of an exchange command on operands in range: XCHG stores none. -/
theorem storesWithin_requestReady {c : ExchangeCmd} {s : State} (h : operandsInRange c s) (rx : Nat → Prop) :
    StoresWithin (storesTx (exchangeInstr c) s) rx s (requestReady c s) := by
  cases c with
  | xchg => exact .of_eq rfl rfl
  | rdregs => exact storesWithin_storeRequest rfl (fun _ hl => ⟨h, hl⟩) s
  | wrcoil => exact storesWithin_storeRequest rfl (fun _ hl => ⟨h, hl⟩) s

theorem storesWithin_bldRdBody (s : State) (rx : Nat → Prop) :
    StoresWithin (storesTx .bldRd s) rx s (bldRdBody s).2 := by
  by_cases h : operandsInRange .rdregs s
  · rw [bldRdBody_ok h]
    exact storesWithin_requestReady h rx
  · rw [bldRdBody_bad h]
    exact .of_eq rfl rfl

theorem storesWithin_bldWcBody (s : State) (rx : Nat → Prop) :
    StoresWithin (storesTx .bldWc s) rx s (bldWcBody s).2 := by
  by_cases h : operandsInRange .wrcoil s
  · rw [bldWcBody_ok h]
    exact storesWithin_requestReady h rx
  · rw [bldWcBody_bad h]
    exact .of_eq rfl rfl

/-! ### Stores of an exchange -/

/-- The sequencer sends the request and leaves it in TXBUF. -/
theorem sequencerStep_txbuf (c : ExchangeCmd) (s : State) : (sequencerStep c s).txbuf = s.txbuf := by
  have h := (sequencerStep_hostSide c s).1
  simp only [hostSide, Prod.mk.injEq] at h
  tauto

theorem endOfWait_rxbuf (c : ExchangeCmd) (s : State) : (endOfWait c s).rxbuf = s.rxbuf := by
  obtain ⟨a, n, e, -⟩ := afterExchange_state c (releasePort s)
  rw [endOfWait, e]
  rfl

/-- A receive step stores at RXLEN, below the bound, or not at all (42_transactor R176, R177). -/
theorem read_exchangeReceive_outside (c : ExchangeCmd) (s : State) {a : Nat} (ha : Config.rxMax ≤ a) :
    (exchangeReceive c s).rxbuf.read a = s.rxbuf.read a := by
  rcases exchangeReceive_cases c s with ⟨o, k, b, hl, e⟩ | ⟨o, k, e⟩ | ⟨o, k, -, e⟩ <;> rw [e]
  · exact Memory.read_write_ne (by omega)
  · rw [endOfWait_rxbuf]
  · rfl

theorem read_sequencerStep_outside (c : ExchangeCmd) (s : State) {a : Nat} (ha : Config.rxMax ≤ a) :
    (sequencerStep c s).rxbuf.read a = s.rxbuf.read a := by
  unfold sequencerStep
  split
  · rcases exchangeStart_cases s with ⟨o, k, -, e⟩ | ⟨o, k, e⟩ <;> simp [e]
  · split
    · rcases exchangeTransmit_cases s with ⟨o, k, e⟩ | ⟨o, k, e⟩ <;> simp [e]
    · rfl
  · exact read_exchangeReceive_outside c s ha

/-- What has been stored since `s₀` while reset was not asserted: bytes of RXBUF below the bound. -/
def storedSince (s₀ s : State) : Prop :=
  resetQuiet s ∧ StoresWithin (fun _ => False) (· < Config.rxMax) s₀ s

theorem storedSince_sequencerTick {s₀ s : State} (h : storedSince s₀ s) : storedSince s₀ (sequencerTick s) := by
  obtain ⟨hq, htx, hrx⟩ := h
  have hq' := resetQuiet_nextSample hq
  rw [sequencerTick, resetLevel_quiet hq, if_neg Bool.false_ne_true]
  split
  · rename_i c _
    refine ⟨?_, fun a ha => ?_, fun a ha => ?_⟩
    · unfold resetQuiet
      rwa [(sequencerStep_hostSide c _).2]
    · rw [sequencerStep_txbuf]
      exact htx a ha
    · rw [read_sequencerStep_outside c _ (not_lt.1 ha)]
      exact hrx a ha
  · exact ⟨hq', htx, hrx⟩

/-- A whole exchange leaves TXBUF as it was and stores to RXBUF below the bound only. -/
theorem storesWithin_sequencerRun (n : Nat) {s : State} (hq : resetQuiet s) :
    StoresWithin (fun _ => False) (· < Config.rxMax) s (sequencerRun n s) :=
  (sequencerRun_induction (P := storedSince s) (fun _ _ => storedSince_sequencerTick) n s ⟨hq, .of_eq rfl rfl⟩).2

/-- The indices an exchange may store its response to, when its operands are in range. -/
theorem storesRx_exchange {c : ExchangeCmd} {s : State} {a : Nat} (h : operandsInRange c s) :
    storesRx (exchangeInstr c) s a ↔ a < Config.rxMax := by
  cases c with
  | xchg => exact Iff.rfl
  | rdregs => exact and_iff_right h
  | wrcoil => exact and_iff_right h

theorem storesWithin_exec_exchange (c : ExchangeCmd) {s t : State} (hq : resetQuiet s)
    (he : exec (exchangeInstr c) s = .next t) :
    StoresWithin (storesTx (exchangeInstr c) s) (storesRx (exchangeInstr c) s) s t := by
  by_cases h : operandsInRange c s
  · rw [exec_exchange h] at he
    cases he
    have begun := requestReady_beginCommand c s
    have quiet : resetQuiet (exchangeBegun c s) := by
      rw [begun]
      cases c <;> exact hq
    obtain ⟨ready_tx, ready_rx⟩ := storesWithin_requestReady h (fun _ => False)
    obtain ⟨run_tx, run_rx⟩ := storesWithin_sequencerRun ((requestReady c s).txlen.toNat + 1003) quiet
    refine ⟨fun a ha => ?_, fun a ha => ?_⟩
    · rw [run_tx a id, begun]
      exact ready_tx a ha
    · rw [run_rx a (mt (storesRx_exchange h).2 ha), begun]
      exact ready_rx a id
  · rw [exec_exchange_bad h] at he
    cases he
    exact .of_eq rfl rfl

end Sys2Proof.Machine

/-! ### The statements -/

namespace Sys2Proof.Proofs

open Sys2Proof Sys2Proof.Machine

/-- Settles O39: an atomic command stores what its body stores, an exchange command its request and then, byte by byte
below the bound, its response. -/
theorem instructionsStoreNowhereElse : Obligations.InstructionsStoreNowhereElse := by
  intro i s t hq he
  show StoresWithin (storesTx i s) (storesRx i s) s t
  cases i with
  | xchg => exact storesWithin_exec_exchange .xchg hq he
  | rdregs => exact storesWithin_exec_exchange .rdregs hq he
  | wrcoil => exact storesWithin_exec_exchange .wrcoil hq he
  | crcInit => cases he; exact .of_eq rfl rfl
  | crcUpd => cases he; exact .of_eq rfl rfl
  | txClr => cases he; exact .of_eq rfl rfl
  | rxClr => cases he; exact .of_eq rfl rfl
  | txPut => cases he; exact storesWithin_txPutBody (beginCommand s)
  | rxPut => cases he; exact storesWithin_rxPutBody (beginCommand s)
  | bldRd => cases he; exact storesWithin_bldRdBody (beginCommand s) _
  | bldWc => cases he; exact storesWithin_bldWcBody (beginCommand s) _
  | valid => cases he; exact storesWithin_validBody _ _ (beginCommand s)
  | echo => cases he; exact storesWithin_echoBody _ _ (beginCommand s)
  | reqRd dev reg count lo hi =>
    cases he
    rw [runAtomic_eq (bldRdBody_frame dev reg count s)]
    exact storesWithin_storeRequest rfl (fun _ => id) (beginCommand (loadReadOperands dev reg count s))
  | reqWcOn dev reg lo hi =>
    cases he
    rw [runAtomic_eq (bldWcBody_frame dev reg 1 s)]
    exact storesWithin_storeRequest rfl (fun _ => id) (beginCommand (loadCoilOperands dev reg 1 s))
  | reqWcOff dev reg lo hi =>
    cases he
    rw [runAtomic_eq (bldWcBody_frame dev reg 0 s)]
    exact storesWithin_storeRequest rfl (fun _ => id) (beginCommand (loadCoilOperands dev reg 0 s))

/-- Settles O11: the eight RW registers have fields of their own, and the write reaches the one that is named. -/
theorem hostWriteReplacesTheRegister : Obligations.HostWriteReplacesTheRegister := by
  intro s n v w q hl hb hq hn hw hv
  have h0 : n ≠ 0 := fun e => by simp [e] at hn
  refine ⟨_, (step_move hl hb hq).trans (hostWrite_register hw hv h0 _), readRegister_writeRegister_same hn hw hv _,
    fun m h h18 h19 => readRegister_writeRegister_ne h h18 h19 v _, ?_⟩
  rw [writeRegister_eq]
  exact ⟨rfl, rfl, rfl, rfl, rfl, rfl, rfl⟩

/-- Settles O10: the read is the host's move, and the register numbers end at 19. -/
theorem hostReadHasNoSideEffect : Obligations.HostReadHasNoSideEffect := by
  intro s n q hl hb hq
  have move := step_move hl hb hq
  exact ⟨fun v hv => move.trans (hostRead_some hv), fun hn => readRegister_of_le hn _,
    fun hn => move.trans (hostRead_none (readRegister_of_gt hn _))⟩

/-- Settles O12: no read-only register is among the eight that a write reaches. -/
theorem hostWriteToReadOnlyIsIgnored : Obligations.HostWriteToReadOnlyIsIgnored := by
  intro s n v w q hl hb hq hn hw hv
  have readOnly : n ≠ 0 ∧ n ∉ [4, 5, 6, 7, 8, 9, 10, 17] := by
    fin_cases hn <;> decide
  rw [step_move hl hb hq]
  exact (hostWrite_register hw hv readOnly.1 _).trans (congrArg _ (writeRegister_readOnly readOnly.2 v _))

end Sys2Proof.Proofs
end

section
/-! PROOFS. The encoding (30_encoding): decoder and encoder invert each other, which words are assigned, what a write to
CMD runs and what no command word writes, and the request frames the block builds. -/

namespace Sys2Proof.Machine

/-! ### The decoder against the encoder -/

@[simp] theorem be16_ofBe16 (h l : Byte) : be16 (ofBe16 h l) = [h, l] := by
  simp [be16]

/-- The decoder on the two frame patterns (30_encoding R95, R96). -/
theorem decode_readRequest (dev : Byte) (reg count : Half) (lo hi : Byte) :
    decode (requestBody dev fcRead reg count ++ [lo, hi]) = .ok (.reqRd dev reg count lo hi) := by
  show Decode.frame dev fcRead (hi8 reg) (lo8 reg) (hi8 count) (lo8 count) lo hi = _
  rw [Decode.frame, if_pos rfl, ofBe16_bytes, ofBe16_bytes]

theorem decode_coilRequest (dev : Byte) (reg v : Half) (lo hi : Byte) :
    decode (requestBody dev fcWrite reg v ++ [lo, hi]) =
      if v = coilValue 1 then .ok (.reqWcOn dev reg lo hi)
      else if v = coilValue 0 then .ok (.reqWcOff dev reg lo hi)
      else .error (.unknownCoilValue v) := by
  show Decode.frame dev fcWrite (hi8 reg) (lo8 reg) (hi8 v) (lo8 v) lo hi = _
  rw [Decode.frame, if_neg (by decide), if_pos rfl, ofBe16_bytes, ofBe16_bytes]

theorem decode_encode (i : Instr) : decode (encode i) = .ok i := by
  cases i with
  | reqRd dev reg count lo hi => exact decode_readRequest dev reg count lo hi
  | reqWcOn dev reg lo hi => exact (decode_coilRequest dev reg (coilValue 1) lo hi).trans (if_pos rfl)
  | reqWcOff dev reg lo hi =>
    refine (decode_coilRequest dev reg (coilValue 0) lo hi).trans ?_
    rw [if_neg (by decide), if_pos rfl]
  | _ => rfl

/-- The opcode map read in both directions: a word decodes to the instruction of its row, and to no other. -/
theorem decode_word_iff {op : Byte} {i : Instr} : decode [op] = .ok i ↔ (op, i) ∈ Decode.commandRows := by
  constructor
  · intro h
    change Decode.command op = .ok i at h
    unfold Decode.command at h
    split at h
    · rename_i hl
      cases h
      exact lookup_mem hl
    · cases h
  · have rows : ∀ row ∈ Decode.commandRows, decode [row.1] = .ok row.2 := by decide
    exact rows (op, i)

theorem encode_of_row {op : Byte} {i : Instr} (h : (op, i) ∈ Decode.commandRows) : encode i = [op] := by
  have rows : ∀ row ∈ Decode.commandRows, encode row.2 = [row.1] := by decide
  exact rows (op, i) h

theorem requestBody_ofBe16 (dev fc rh rl vh vl : Byte) :
    requestBody dev fc (ofBe16 rh rl) (ofBe16 vh vl) = [dev, fc, rh, rl, vh, vl] := by
  simp [requestBody]

/-- A frame that is accepted is the encoding of what it decodes to, its checksum bytes included. -/
theorem encode_of_frame {dev fc rh rl vh vl lo hi : Byte} {i : Instr}
    (h : Decode.frame dev fc rh rl vh vl lo hi = .ok i) : encode i = [dev, fc, rh, rl, vh, vl, lo, hi] := by
  unfold Decode.frame at h
  split at h
  case isTrue =>
    cases h
    subst fc
    rw [encode, requestBody_ofBe16]
    rfl
  case isFalse =>
    split at h
    case isFalse => cases h
    subst fc
    split at h
    case isTrue on =>
      cases h
      rw [encode, ← on, requestBody_ofBe16]
      rfl
    case isFalse =>
      split at h
      case isFalse => cases h
      rename_i off
      cases h
      rw [encode, ← off, requestBody_ofBe16]
      rfl

/-- Whatever the decoder accepts, of whatever length, is an encoding. -/
theorem encode_of_decode {bytes : List Byte} {i : Instr} (h : decode bytes = .ok i) : encode i = bytes := by
  unfold decode at h
  split at h
  · exact encode_of_row (decode_word_iff.1 h)
  · exact encode_of_frame h
  · cases h

/-- The assigned words are those of the opcode map (30_encoding R92). -/
theorem decode_word_assigned {op : Byte} :
    (∃ i, decode [op] = .ok i) ↔ op ∈ Decode.commandRows.map Prod.fst := by
  simp only [decode_word_iff, List.mem_map, Prod.exists, exists_and_right, exists_eq_right]

/-! ### Writes to CMD -/

theorem hostWrite_cmd {v : Nat} (hv : v < 256) (s : State) :
    hostWrite 0 v s = runCommandWord (BitVec.ofNat 8 v) s := by
  have fits : ¬2 ^ 8 ≤ v := by omega
  simp only [hostWrite, regWidth, if_neg fits, if_true]

theorem runCommandWord_assigned {op : Byte} {i : Instr} (h : decode [op] = .ok i) (s : State) :
    runCommandWord op s = exec i s := by
  rw [runCommandWord, h]

theorem runCommandWord_reserved {op : Byte} (h : ¬∃ i, decode [op] = .ok i) (s : State) :
    runCommandWord op s = .next (ended 0x02 1 s) := by
  unfold runCommandWord
  split
  · rename_i i hi
    exact absurd ⟨i, hi⟩ h
  · rw [illegalCommand_eq]

/-! ### The operand and configuration registers -/

/-- The operand and configuration registers (30_encoding R109). -/
def operandRegisters (s : State) :=
  (s.argDev, s.argReg, s.argCnt, s.argCoil, s.data, s.port, s.baud, s.idx)

theorem operandRegisters_eq_iff {s t : State} : operandRegisters t = operandRegisters s ↔
    t.argDev = s.argDev ∧ t.argReg = s.argReg ∧ t.argCnt = s.argCnt ∧ t.argCoil = s.argCoil ∧ t.data = s.data ∧
    t.port = s.port ∧ t.baud = s.baud ∧ t.idx = s.idx := by
  simp only [operandRegisters, Prod.mk.injEq]

/-- What `hostSide` says of the host's own moves and registers. -/
theorem hostSide_eq {s t : State} (h : hostSide t = hostSide s) :
    t.hostQueue = s.hostQueue ∧ t.reads = s.reads ∧ operandRegisters t = operandRegisters s := by
  simp only [hostSide, Prod.mk.injEq] at h
  obtain ⟨hq, hr, hdev, hreg, hcnt, hcoil, hdata, hport, hbaud, hidx, -, -⟩ := h
  exact ⟨hq, hr, operandRegisters_eq_iff.2 ⟨hdev, hreg, hcnt, hcoil, hdata, hport, hbaud, hidx⟩⟩

theorem operandRegisters_sequencerStep (c : ExchangeCmd) (s : State) :
    operandRegisters (sequencerStep c s) = operandRegisters s :=
  (hostSide_eq (sequencerStep_hostSide c s).1).2.2

/-- The operand registers hold `r`, and no coming sampling point asserts reset, which would clear them. -/
def operandsHeld (r : Word × Word × Word × BitVec 1 × Byte × Byte × Word × Half) (s : State) : Prop :=
  resetQuiet s ∧ operandRegisters s = r

theorem operandsHeld_sequencerTick {r} {s : State} (h : operandsHeld r s) : operandsHeld r (sequencerTick s) := by
  obtain ⟨hq, hr⟩ := h
  have quiet := resetQuiet_nextSample hq
  rw [sequencerTick, resetLevel_quiet hq, if_neg Bool.false_ne_true]
  split
  · rename_i c _
    refine ⟨?_, (operandRegisters_sequencerStep c _).trans hr⟩
    unfold resetQuiet
    rwa [(sequencerStep_hostSide c _).2]
  · exact ⟨quiet, hr⟩

theorem operandRegisters_exec_exchange (c : ExchangeCmd) {s t : State} (hq : resetQuiet s)
    (he : exec (exchangeInstr c) s = .next t) : operandRegisters t = operandRegisters s := by
  by_cases h : operandsInRange c s
  · rw [exec_exchange h] at he
    cases he
    have start : operandsHeld (operandRegisters s) (exchangeBegun c s) := by
      rw [requestReady_beginCommand]
      cases c <;> exact ⟨hq, rfl⟩
    exact (sequencerRun_induction (P := operandsHeld _) (fun _ _ => operandsHeld_sequencerTick) _ _ start).2
  · rw [exec_exchange_bad h] at he
    cases he
    rfl

/-- A body that leaves the operand registers alone makes a command that does. -/
theorem operandRegisters_runAtomic {body : State → List ErrorKind × State}
    (hb : ∀ u, operandRegisters (body u).2 = operandRegisters u) (s : State) :
    operandRegisters (runAtomic body s) = operandRegisters s :=
  hb (beginCommand s)

theorem operandRegisters_txPutBody (s : State) : operandRegisters (txPutBody s).2 = operandRegisters s := by
  unfold txPutBody
  split <;> rfl

theorem operandRegisters_rxPutBody (s : State) : operandRegisters (rxPutBody s).2 = operandRegisters s := by
  unfold rxPutBody
  split <;> rfl

theorem operandRegisters_bldRdBody (s : State) : operandRegisters (bldRdBody s).2 = operandRegisters s := by
  unfold bldRdBody
  split <;> rfl

theorem operandRegisters_bldWcBody (s : State) : operandRegisters (bldWcBody s).2 = operandRegisters s := by
  unfold bldWcBody
  split <;> rfl

theorem operandRegisters_validBody (s : State) : operandRegisters (validBody s).2 = operandRegisters s := by
  unfold validBody
  rw [checkTrailer_state]
  split <;> rfl

theorem operandRegisters_echoBody (s : State) : operandRegisters (echoBody s).2 = operandRegisters s := by
  unfold echoBody
  split <;> rfl

/-- The command words are the instructions of one byte; the frame rows load operands (log entry 10). -/
theorem operandRegisters_exec {i : Instr} {s t : State} (hq : resetQuiet s) (hl : (encode i).length = 1)
    (he : exec i s = .next t) : operandRegisters t = operandRegisters s := by
  cases i with
  | xchg => exact operandRegisters_exec_exchange .xchg hq he
  | rdregs => exact operandRegisters_exec_exchange .rdregs hq he
  | wrcoil => exact operandRegisters_exec_exchange .wrcoil hq he
  | crcInit => cases he; rfl
  | crcUpd => cases he; rfl
  | txClr => cases he; rfl
  | rxClr => cases he; rfl
  | txPut => cases he; exact operandRegisters_runAtomic operandRegisters_txPutBody s
  | rxPut => cases he; exact operandRegisters_runAtomic operandRegisters_rxPutBody s
  | bldRd => cases he; exact operandRegisters_runAtomic operandRegisters_bldRdBody s
  | bldWc => cases he; exact operandRegisters_runAtomic operandRegisters_bldWcBody s
  | valid => cases he; exact operandRegisters_runAtomic operandRegisters_validBody s
  | echo => cases he; exact operandRegisters_runAtomic operandRegisters_echoBody s
  | reqRd dev reg count lo hi => cases hl
  | reqWcOn dev reg lo hi => cases hl
  | reqWcOff dev reg lo hi => cases hl

/-! ### Request frames -/

theorem sealed_of_crc16 {body : List Byte} {lo hi : Byte} (h : crc16 body = (lo, hi)) :
    sealed body = body ++ [lo, hi] := by
  rw [sealed, h]

/-- A command whose body stores a request and raises nothing ends with OK and that request (41_codec R145, R146). -/
theorem runAtomic_storeRequest {build : State → List ErrorKind × State} {body : List Byte} {s : State}
    (h : build (beginCommand s) = ([], storeRequest body (beginCommand s))) :
    runAtomic build s = ended 0x01 0 (withRequest body s) := by
  rw [runAtomic_eq h, finishCommand_ok]
  rfl

/-- The three frame rows of the opcode table, as instructions. -/
theorem exec_frameRow {i : Instr} (hl : (encode i).length = 8) (s : State) :
    exec i s = .next (ended 0x01 0 (withRequest ((encode i).take 6) (withFrameOperands i s))) := by
  cases i with
  | reqRd dev reg count lo hi => exact congrArg _ (runAtomic_storeRequest (bldRdBody_frame dev reg count s))
  | reqWcOn dev reg lo hi => exact congrArg _ (runAtomic_storeRequest (bldWcBody_frame dev reg 1 s))
  | reqWcOff dev reg lo hi => exact congrArg _ (runAtomic_storeRequest (bldWcBody_frame dev reg 0 s))
  | _ => cases hl

/-- A well-formed frame is its first six bytes with their checksum appended (30_encoding R94, R99). -/
theorem sealed_take_encode {i : Instr} (hl : (encode i).length = 8) (hw : i.wellFormed = true) :
    sealed ((encode i).take 6) = encode i := by
  cases i with
  | reqRd dev reg count lo hi => exact sealed_of_crc16 (beq_iff_eq.1 hw)
  | reqWcOn dev reg lo hi => exact sealed_of_crc16 (beq_iff_eq.1 hw)
  | reqWcOff dev reg lo hi => exact sealed_of_crc16 (beq_iff_eq.1 hw)
  | _ => cases hl

theorem txBytes_ended (r : Byte) (c : BitVec 3) (s : State) : txBytes (ended r c s) = txBytes s := rfl

/-- The slices BLD.RD takes are the frame's fields: the low byte or half of each operand (41_codec R145). -/
theorem readBody_eq_requestBody (dev reg cnt : Word) :
    readBody dev reg cnt = requestBody (dev.setWidth 8) fcRead (reg.setWidth 16) (cnt.setWidth 16) := by
  rw [readBody, byteOf_low_byte, byteOf_high_setWidth, byteOf_low_setWidth, byteOf_high_setWidth, byteOf_low_setWidth]
  rfl

theorem coilBody_eq_requestBody (dev reg : Word) (v : BitVec 1) :
    coilBody dev reg v = requestBody (dev.setWidth 8) fcWrite (reg.setWidth 16) (coilValue v) := by
  rw [coilBody, byteOf_low_byte, byteOf_high_setWidth, byteOf_low_setWidth]
  rfl

theorem exec_bldRd_inRange {s : State} (h : operandsInRange .rdregs s) :
    exec .bldRd s = .next (ended 0x01 0 (withRequest
      (requestBody (s.argDev.setWidth 8) fcRead (s.argReg.setWidth 16) (s.argCnt.setWidth 16)) s)) := by
  refine congrArg _ (runAtomic_storeRequest ?_)
  rw [bldRdBody, ← readBody_eq_requestBody]
  exact if_pos (argsOkRd_iff.2 h)

theorem exec_bldWc_inRange {s : State} (h : operandsInRange .wrcoil s) :
    exec .bldWc s = .next (ended 0x01 0 (withRequest
      (requestBody (s.argDev.setWidth 8) fcWrite (s.argReg.setWidth 16) (coilValue s.argCoil)) s)) := by
  refine congrArg _ (runAtomic_storeRequest ?_)
  rw [bldWcBody, ← coilBody_eq_requestBody]
  exact if_pos (argsOkWc_iff.2 h)

/-- The row of a write-coil frame, on or off (30_encoding R97). -/
def coilRow (v : BitVec 1) (dev : Byte) (reg : Half) (lo hi : Byte) : Instr :=
  if v = 1 then .reqWcOn dev reg lo hi else .reqWcOff dev reg lo hi

theorem encode_coilRow (v : BitVec 1) (dev : Byte) (reg : Half) (lo hi : Byte) :
    encode (coilRow v dev reg lo hi) = requestBody dev fcWrite reg (coilValue v) ++ [lo, hi] := by
  unfold coilRow coilValue
  split <;> rfl

theorem wellFormed_coilRow (v : BitVec 1) (dev : Byte) (reg : Half) (lo hi : Byte) :
    (coilRow v dev reg lo hi).wellFormed = (crc16 (requestBody dev fcWrite reg (coilValue v)) == (lo, hi)) := by
  unfold coilRow coilValue
  split <;> rfl

/-- A stored request decodes to the instruction that it is the encoding of. -/
theorem decode_txBytes_request {i : Instr} {body : List Byte} {s : State} (r : Byte) (c : BitVec 3) (hw : s.txbuf.wf)
    (hl : body.length = 6) (he : encode i = sealed body) :
    decode (txBytes (ended r c (withRequest body s))) = .ok i := by
  rw [txBytes_ended, txBytes_withRequest hw hl, ← he, decode_encode]

end Sys2Proof.Machine

/-! ### The statements -/

namespace Sys2Proof.Proofs

open Sys2Proof Sys2Proof.Machine

/-- Settles O2: each command word stands in the opcode map, and a frame's fields are put together from the bytes the
encoder takes them apart into. -/
theorem decodeInvertsEncode : Obligations.DecodeInvertsEncode := decode_encode

/-- Settles O3: one byte is accepted as a row of the opcode map, eight as a frame whose every byte is a field. -/
theorem encodeInvertsDecode : Obligations.EncodeInvertsDecode := fun _ _ => encode_of_decode

/-- Settles O7: a word that is in no row of the opcode map is answered by `illegalCommand`. -/
theorem reservedWordRaisesIllegalCommand : Obligations.ReservedWordRaisesIllegalCommand := by
  intro s v q hl hb hq hv hn
  have reserved : ¬∃ i, decode [BitVec.ofNat 8 v] = .ok i := by
    rw [decode_word_assigned]
    intro h
    have hmem := List.mem_map_of_mem (f := BitVec.toNat) h
    rw [BitVec.toNat_ofNat, Nat.mod_eq_of_lt hv] at hmem
    exact hn hmem
  rw [step_move hl hb hq]
  exact (hostWrite_cmd hv _).trans (runCommandWord_reserved reserved _)

/-- Settles O13: a step with BUSY = 1 is one of the sequencer, which leaves the host's side as it was. -/
theorem hostIsHeldWhileBusy : Obligations.HostIsHeldWhileBusy := by
  intro s t hl hb he
  rcases step_cases he with ⟨hr, -⟩ | ⟨-, -, c, -, rfl⟩ | ⟨-, hi, -⟩ | ⟨-, hi, -⟩
  · simp [hl] at hr
  · obtain ⟨queue, reads, operands⟩ := hostSide_eq (sequencerStep_hostSide c (nextSample s)).1
    exact ⟨queue, reads, operandRegisters_eq_iff.1 operands⟩
  · simp [hb] at hi
  · simp [hb] at hi

/-- Settles O18: an atomic command's body writes none of them, and neither does a sequencer step. -/
theorem commandsKeepTheOperandRegisters : Obligations.CommandsKeepTheOperandRegisters :=
  fun _ _ _ hq hl he => operandRegisters_eq_iff.1 (operandRegisters_exec hq hl he)

/-- Settles O35: a frame row runs its builder on the row's own fields, which are in range. -/
theorem frameRowsBuildTheirFrame : Obligations.FrameRowsBuildTheirFrame := by
  intro i s hl
  refine ⟨_, exec_frameRow hl s, rfl, fun hwf hw => ?_⟩
  have hw' : (withFrameOperands i s).txbuf.wf := by cases i <;> exact hw
  rw [txBytes_ended, txBytes_withRequest hw' (by simp [hl]), sealed_take_encode hl hwf]

/-- Settles O36: the builders' slices are the fields of the frame, so the stored request is the encoding of its row. -/
theorem builtRequestsAreWellFormed : Obligations.BuiltRequestsAreWellFormed := by
  intro s hw hdev hreg
  refine ⟨fun hcnt => ⟨_, _, exec_bldRd_inRange ⟨hdev, hreg, hcnt⟩, ?_, ?_, rfl⟩,
    ⟨_, _, exec_bldWc_inRange ⟨hdev, hreg⟩, ?_, ?_, rfl⟩⟩
  · exact decode_txBytes_request _ _ hw rfl rfl
  · exact beq_self_eq_true (crc16 _)
  · exact decode_txBytes_request _ _ hw rfl (encode_coilRow ..)
  · exact (wellFormed_coilRow ..).trans (beq_self_eq_true (crc16 _))

/-- Settles O1: each of the words and frames is the encoding of the instruction it stands for. -/
theorem specWordsDecode : Obligations.SpecWordsDecode :=
  ⟨decode_encode .crcInit, decode_encode .crcUpd, decode_encode .txClr, decode_encode .txPut, decode_encode .rxClr,
    decode_encode .rxPut, decode_encode .bldRd, decode_encode .bldWc, decode_encode .valid, decode_encode .echo,
    decode_encode .xchg, decode_encode .rdregs, decode_encode .wrcoil,
    decode_encode (.reqRd 0x04 0x1234 0x0002 0x80 0xE8), decode_encode (.reqWcOn 0x02 0x0003 0x7C 0x09),
    decode_encode (.reqWcOff 0x02 0x0003 0x3D 0xF9)⟩

/-- Settles O4: the assigned words are the thirteen rows of the opcode map; the others are counted. -/
theorem thirteenWordsAreAssigned : Obligations.ThirteenWordsAreAssigned :=
  ⟨fun _ => decode_word_assigned, by decide +kernel⟩

/-- Settles O5: the write is the host's move, and CMD takes the word. -/
theorem stepRunsTheCommandWritten : Obligations.StepRunsTheCommandWritten := by
  intro s v q i hl hb hq hv hi
  rw [step_move hl hb hq]
  exact (hostWrite_cmd hv _).trans (runCommandWord_assigned hi _)

end Sys2Proof.Proofs
end

section
/-! PROOFS. The checksum engine (40_crc): the table and the step against the polynomial (R125, R127), the properties of
the step and of a frame's checksum (R128), and the engine's commands one by one and streamed (R121 to R123). -/

namespace Sys2Proof.Machine

/-! ### A 16-bit value as its two bytes -/

theorem ofBe16_toNat (h l : Byte) : (ofBe16 h l).toNat = h.toNat * 256 + l.toNat := by
  rw [ofBe16, BitVec.toNat_append, ← Nat.shiftLeft_add_eq_or_of_lt l.isLt, Nat.shiftLeft_eq]

theorem ofBe16_xor (h l h' l' : Byte) : ofBe16 h l ^^^ ofBe16 h' l' = ofBe16 (h ^^^ h') (l ^^^ l') :=
  BitVec.xor_append

theorem ofBe16_zero_left (b : Byte) : ofBe16 0 b = b.setWidth 16 := by
  apply BitVec.eq_of_toNat_eq
  simp [ofBe16_toNat]; omega

theorem ofBe16_zero_right (b : Byte) : ofBe16 b 0 = b.setWidth 16 <<< 8 := by
  apply BitVec.eq_of_toNat_eq
  simp [ofBe16_toNat]; omega

theorem ofBe16_shiftRight (h l : Byte) : ofBe16 h l >>> 8 = h.setWidth 16 := by
  apply BitVec.eq_of_toNat_eq
  simp [ofBe16_toNat]; omega

theorem ofBe16_setWidth (h l : Byte) : (ofBe16 h l).setWidth 8 = l := by
  apply BitVec.eq_of_toNat_eq
  simp [ofBe16_toNat]; omega

/-! ### The bit-serial rounds -/

/-- A round is linear: bit 0 decides alone whether the polynomial is added, and added twice it cancels. -/
theorem crcRound_xor (a b : Half) : crcRound (a ^^^ b) = crcRound a ^^^ crcRound b := by
  have cancel (x y p : Half) : x ^^^ y = (x ^^^ p) ^^^ (y ^^^ p) := by
    rw [BitVec.xor_comm y, BitVec.xor_assoc, ← BitVec.xor_assoc p, BitVec.xor_self, BitVec.zero_xor]
  unfold crcRound
  rw [BitVec.getLsbD_xor, BitVec.ushiftRight_xor_distrib]
  cases a.getLsbD 0 <;> cases b.getLsbD 0
  · rfl
  · exact BitVec.xor_assoc ..
  · show a >>> 1 ^^^ b >>> 1 ^^^ 0xA001 = a >>> 1 ^^^ 0xA001 ^^^ b >>> 1
    ac_rfl
  · exact cancel ..

theorem crcRounds8_xor (a b : Half) : crcRounds8 (a ^^^ b) = crcRounds8 a ^^^ crcRounds8 b := by
  simp only [crcRounds8, crcRound_xor]

/-- With bit 0 clear a round only shifts. -/
theorem crcRound_shiftLeft_succ {k : Nat} (hk : k < 8) (b : Byte) :
    crcRound (b.setWidth 16 <<< (k + 1)) = b.setWidth 16 <<< k := by
  rw [crcRound, if_neg (by simp)]
  ext i hi
  by_cases top : i = 15
  · have clear : b.getLsbD (15 - k) = false := b.getLsbD_of_ge _ (by omega)
    simp [top, clear]
  · have index : 1 + i - (k + 1) = i - k := by omega
    simp [index, show 1 + i < 16 by omega, show 1 + i < k + 1 ↔ i < k by omega]

/-- A high byte comes down unchanged: in its eight rounds no bit of it reaches bit 0. -/
theorem crcRounds8_shiftLeft (b : Byte) : crcRounds8 (b.setWidth 16 <<< 8) = b.setWidth 16 := by
  simp [crcRounds8, crcRound_shiftLeft_succ]

/-- The table is what eight rounds make of each index (R125). -/
theorem crcTable_eq : crcTable = (List.range 256).map fun i => crcRounds8 (BitVec.ofNat 16 i) := by decide +kernel

theorem crcEntry_eq_crcRounds8 (i : Byte) : crcEntry i = crcRounds8 (i.setWidth 16) := by
  have hi : i.toNat < 256 := i.isLt
  simp [crcEntry, crcTable_eq, hi]

/-! ### The step on one 16-bit accumulator -/

/-- The step's two results as one number: the entry, with the old high accumulator added to its low byte (R122). -/
theorem ofBe16_crcStep (lo hi w : Byte) :
    ofBe16 (crcStep (lo, hi) w).2 (crcStep (lo, hi) w).1 = hi.setWidth 16 ^^^ crcEntry (lo ^^^ w) := by
  calc ofBe16 (crcStep (lo, hi) w).2 (crcStep (lo, hi) w).1
      = ofBe16 (hi8 (crcEntry (lo ^^^ w))) (lo8 (crcEntry (lo ^^^ w)) ^^^ hi) := rfl
    _ = ofBe16 0 hi ^^^ ofBe16 (hi8 (crcEntry (lo ^^^ w))) (lo8 (crcEntry (lo ^^^ w))) := by
        rw [ofBe16_xor, BitVec.xor_comm hi]; simp
    _ = hi.setWidth 16 ^^^ crcEntry (lo ^^^ w) := by rw [ofBe16_bytes, ofBe16_zero_left]

/-- The table form (R127): the low byte of the accumulator and the input select the entry. -/
theorem ofBe16_crcStep_eq_table (lo hi w : Byte) :
    ofBe16 (crcStep (lo, hi) w).2 (crcStep (lo, hi) w).1 =
      (ofBe16 hi lo >>> 8) ^^^ crcEntry ((ofBe16 hi lo ^^^ w.setWidth 16).setWidth 8) := by
  have index : (ofBe16 hi lo ^^^ w.setWidth 16).setWidth 8 = lo ^^^ w := by
    rw [← ofBe16_zero_left, ofBe16_xor, ofBe16_setWidth]
  rw [ofBe16_crcStep, ofBe16_shiftRight, index]

/-- The bit-serial form (R127): the rounds work on the high byte and on the low one apart. -/
theorem ofBe16_crcStep_eq_rounds (lo hi w : Byte) :
    ofBe16 (crcStep (lo, hi) w).2 (crcStep (lo, hi) w).1 = crcRounds8 (ofBe16 hi lo ^^^ w.setWidth 16) := by
  have parts : ofBe16 hi lo ^^^ w.setWidth 16 = ofBe16 hi 0 ^^^ ofBe16 0 (lo ^^^ w) := by
    rw [← ofBe16_zero_left, ofBe16_xor, ofBe16_xor]; simp
  rw [parts, crcRounds8_xor, ofBe16_zero_right, crcRounds8_shiftLeft, ofBe16_zero_left, ← crcEntry_eq_crcRounds8,
    ofBe16_crcStep]

/-! ### The step loses nothing -/

/-- The new high accumulator tells the index, and with it the old low accumulator; then the new low one tells the old
high one (R128 e). -/
theorem crcStep_acc_injective (w : Byte) : Function.Injective fun acc => crcStep acc w := by
  rintro ⟨lo, hi⟩ ⟨lo', hi'⟩ h
  obtain ⟨hlo, hhi⟩ := Prod.mk.inj h
  have index : lo ^^^ w = lo' ^^^ w := crcEntry_hi_inj _ _ hhi
  obtain rfl := (BitVec.xor_left_inj w).1 index
  obtain rfl := (BitVec.xor_right_inj _).1 hlo
  rfl

theorem crcStep_byte_injective (acc : Byte × Byte) : Function.Injective (crcStep acc) := fun _ _ h =>
  (BitVec.xor_right_inj _).1 (crcEntry_hi_inj _ _ (congrArg Prod.snd h))

/-- Different accumulators stay different over any further bytes. -/
theorem crcRun_acc_injective (d : List Byte) : Function.Injective fun acc => crcRun acc d := by
  induction d with
  | nil => exact Function.injective_id
  | cons w d ih => exact ih.comp (crcStep_acc_injective w)

/-- Two sequences that differ in one byte have different checksums. -/
theorem crc16_ne_of_byte_ne (b c : List Byte) {x y : Byte} (h : x ≠ y) :
    crc16 (b ++ [x] ++ c) ≠ crc16 (b ++ [y] ++ c) := by
  have run (z : Byte) : crc16 (b ++ [z] ++ c) = crcRun (crcStep (crc16 b) z) c := by
    rw [← crc16_append_one]; exact crcRun_append ..
  rw [run, run]
  exact fun e => h (crcStep_byte_injective _ (crcRun_acc_injective c e))

/-! ### A checksum appended -/

/-- The first checksum byte moves the second into the low accumulator (R128 f). -/
theorem crc16_append_lo {b : List Byte} {l h : Byte} (e : crc16 b = (l, h)) : crc16 (b ++ [l]) = (h, 0) := by
  rw [crc16_append_one, e, crcStep_self]

theorem validFrame_append_iff (b : List Byte) (l h : Byte) : validFrame (b ++ [l, h]) = true ↔ crc16 b = (l, h) := by
  rw [validFrame_append, beq_iff_eq, eq_comm]

/-- A valid sequence is a body with its checksum appended (41_codec R147). -/
theorem exists_body_of_validFrame {r : List Byte} (hv : validFrame r = true) :
    ∃ b l h, r = b ++ [l, h] ∧ crc16 b = (l, h) := by
  obtain ⟨-, trailer⟩ := Bool.and_eq_true_iff.1 hv
  exact ⟨r.take (r.length - 2), _, _, (List.take_append_drop ..).symm.trans (congrArg _ (beq_iff_eq.1 trailer)), rfl⟩

/-- The checksum moves one place on: `h, 0` ends the longer frame as `l, h` did the shorter. -/
theorem validFrame_append_zero {r : List Byte} (hv : validFrame r = true) : validFrame (r ++ [0]) = true := by
  obtain ⟨b, l, h, rfl, e⟩ := exists_body_of_validFrame hv
  have regroup : b ++ [l, h] ++ [0] = (b ++ [l]) ++ [h, 0] := by simp
  rw [regroup, validFrame_append_iff, crc16_append_lo e]

/-! ### The engine's commands -/

/-- A command that only sets the accumulators ends with OK and with them set. -/
theorem runAtomic_setCrc (acc : State → Byte × Byte) (s : State) :
    runAtomic (fun t => ([], setCrc (acc t) t)) s = ended 0x01 0 (setCrc (acc (beginCommand s)) s) :=
  finishCommand_ok _

theorem exec_crcInit (s : State) : exec .crcInit s = .next (ended 0x01 0 (setCrc crcSeed s)) :=
  congrArg _ (runAtomic_setCrc (fun _ => crcSeed) s)

theorem exec_crcUpd (s : State) : exec .crcUpd s = .next (ended 0x01 0 (setCrc (crcStep (crcAcc s) s.data) s)) :=
  congrArg _ (runAtomic_setCrc (fun t => crcStep (crcAcc t) t.data) s)

/-! ### Bytes streamed through the engine -/

/-- A move that writes a command word runs the command (30_encoding R107). -/
theorem hostMove_bareMove {i : Instr} {op : Byte} (h : encode i = [op]) (s : State) :
    hostMove (bareMove i) s = exec i s := by
  have word : decode [op] = .ok i := h ▸ decode_encode i
  rw [bareMove, h]
  refine (hostWrite_cmd op.isLt s).trans ?_
  rw [BitVec.ofNat_toNat, BitVec.setWidth_eq, runCommandWord_assigned word]

theorem hostMove_writeData (w : Byte) (s : State) :
    hostMove (writeTo .data w.toNat) s = .next { s with data := w } := by
  refine (hostWrite_register (n := 8) rfl w.isLt (by decide) s).trans ?_
  rw [writeRegister, BitVec.ofNat_toNat, BitVec.setWidth_eq]

/-- One move of the host as the first step of a run. -/
theorem coreRun_move {s t : State} {m : HostMove} {q : List HostMove} (hr : s.resetPin = []) (hb : s.busy = false)
    (hq : s.hostQueue = m :: q) (hm : hostMove m { s with hostQueue := q } = .next t) (n : Nat) :
    Host.Core.run Sys2Proof.core (n + 1) s = Host.Core.run Sys2Proof.core n t := by
  have quiet : resetLevel s = false := by rw [resetLevel, hr]; rfl
  have pin : s.resetPin.tail = s.resetPin := by rw [hr]; rfl
  refine coreRun_next ((step_move quiet hb hq).trans ?_)
  rw [pin]
  exact hm

/-- Between two bytes of a streamed checksum: the accumulators hold `acc`, the bytes `d` are still to come, the last
command ended with OK, and the history is `h`. -/
structure Streaming (h : List LineRecord) (acc : Byte × Byte) (d : List Byte) (s : State) : Prop where
  resetPin : s.resetPin = []
  busy : s.busy = false
  queue : s.hostQueue = feed .crcUpd d
  acc : crcAcc s = acc
  result : s.result = 0x01
  history : s.history = h

/-- One byte takes two moves, the write to DATA and CRC.UPD. -/
theorem Streaming.next {h : List LineRecord} {acc : Byte × Byte} {w : Byte} {d : List Byte} {s : State}
    (hs : Streaming h acc (w :: d) s) :
    ∃ t, Streaming h (crcStep acc w) d t ∧
      ∀ n, Host.Core.run Sys2Proof.core (n + 2) s = Host.Core.run Sys2Proof.core n t := by
  obtain ⟨hr, hb, hq, rfl, -, rfl⟩ := hs
  refine ⟨_, ?_, fun n => (coreRun_move hr hb hq (hostMove_writeData w _) (n + 1)).trans
    (coreRun_move (by exact hr) (by exact hb) rfl ((hostMove_bareMove rfl _).trans (exec_crcUpd _)) n)⟩
  exact ⟨hr, rfl, rfl, rfl, rfl, rfl⟩

/-- A run takes the bytes one after another to the end of the queue. -/
theorem Streaming.run {h : List LineRecord} {d : List Byte} {acc : Byte × Byte} {s : State} (hs : Streaming h acc d s) :
    ∃ t, Host.Core.run Sys2Proof.core (2 * d.length) s = .next t ∧ Streaming h (crcRun acc d) [] t := by
  induction d generalizing acc s with
  | nil => exact ⟨s, rfl, hs⟩
  | cons w d ih =>
    obtain ⟨t, ht, two⟩ := hs.next
    rw [List.length_cons, Nat.mul_succ, two]
    exact ih ht

end Sys2Proof.Machine

/-! ### The statements -/

namespace Sys2Proof.Proofs

open Sys2Proof Sys2Proof.Machine

/-- Settles O22: the rounds are linear, they shift a high byte down and make the table's entry of a low one. -/
theorem stepIsTheSixteenBitForm : Obligations.StepIsTheSixteenBitForm :=
  fun lo hi w => ⟨ofBe16_crcStep_eq_table lo hi w, ofBe16_crcStep_eq_rounds lo hi w⟩

/-- Settles O23: CRC.INIT is the first move and leaves the seed; the bytes follow, two moves each. -/
theorem streamedBytesGiveTheChecksum : Obligations.StreamedBytesGiveTheChecksum := by
  intro d s hr hb hq
  have seeded : Streaming s.history crcSeed d (ended 0x01 0 (setCrc crcSeed { s with hostQueue := feed .crcUpd d })) :=
    ⟨hr, rfl, rfl, rfl, rfl, rfl⟩
  obtain ⟨t, run, -, -, queue, acc, result, history⟩ := seeded.run
  exact ⟨t, (coreRun_move hr hb hq ((hostMove_bareMove rfl _).trans (exec_crcInit _)) _).trans run,
    acc, result, queue, history⟩

/-- Settles O24: each of the two bytes is the low accumulator when its step is taken. -/
theorem wholeFrameLeavesZero : Obligations.WholeFrameLeavesZero := by
  intro b l h e
  have first := crc16_append_lo e
  refine ⟨first, ?_⟩
  rw [List.append_cons]
  exact crc16_append_lo first

/-- Settles O25: the step is injective, on finitely many pairs. -/
theorem crcStepIsBijective : Obligations.CrcStepIsBijective :=
  fun w => (crcStep_acc_injective w).bijective_of_finite

/-- Settles O27: the two bodies have different checksums, so the trailer is that of one of them only. -/
theorem changedBodyByteIsDetected : Obligations.ChangedBodyByteIsDetected := by
  intro b c x y l h hxy hv
  rw [validFrame_append_iff] at hv
  rw [← Bool.not_eq_true, validFrame_append_iff, ← hv]
  exact (crc16_ne_of_byte_ne b c hxy).symm

/-- Settles O28: one zero byte keeps the frame valid, and so does any number of them. -/
theorem trailingZerosStayValid : Obligations.TrailingZerosStayValid := by
  intro r k hv
  induction k generalizing r with
  | zero => simpa using hv
  | succ k ih =>
    rw [List.replicate_succ, List.append_cons]
    exact ih _ (validFrame_append_zero hv)

/-- Settles O19: CRC.INIT sets the accumulators to the seed. -/
theorem crcInitSeedsBothAccumulators : Obligations.CrcInitSeedsBothAccumulators := exec_crcInit

/-- Settles O20: the accumulators become the pair that `crcStep` makes of the entry's two bytes. -/
theorem crcUpdTakesOneTableStep : Obligations.CrcUpdTakesOneTableStep := by
  rintro s _ rfl
  exact exec_crcUpd s

/-- Settles O21: `crcTable_eq` holds the literals against the rounds. -/
theorem tableIsGeneratedByThePolynomial : Obligations.TableIsGeneratedByThePolynomial :=
  ⟨by rw [crcTable_eq, List.length_map, List.length_range], crcEntry_eq_crcRounds8⟩

end Sys2Proof.Proofs
end

section
/-! PROOFS. The frame codec (41_codec): the validity predicate (R147), the commands that load the buffers by hand (R140 to
R143), the request builders and the exchanges they refuse (R144 to R146), VALID (R148, R149) and ECHO (R150). -/

namespace Sys2Proof.Machine

/-! ### The end of an atomic command -/

/-- An atomic command whose body turns `s` into `t`, apart from the start of the command cycle, and raises `ks`. -/
theorem runAtomic_ended {body : State → List ErrorKind × State} {ks : List ErrorKind} {r : Byte} {c : BitVec 3}
    {s t : State} (hr : resultOf ks = r) (hc : causeOf r = c) (h : body (beginCommand s) = (ks, beginCommand t)) :
    runAtomic body s = ended r c t := by
  rw [runAtomic_eq h, finishCommand_of hr hc]
  rfl

theorem runAtomic_ok {body : State → List ErrorKind × State} {s t : State}
    (h : body (beginCommand s) = ([], beginCommand t)) : runAtomic body s = ended 0x01 0 t :=
  runAtomic_ended resultOf_nil causeOf_ok h

theorem runAtomic_argument {body : State → List ErrorKind × State} {s : State}
    (h : body (beginCommand s) = ([.invalidArgument], beginCommand s)) : runAtomic body s = ended 0x04 2 s :=
  runAtomic_ended resultOf_argument causeOf_argument h

/-! ### The validity predicate -/

theorem validFrame_iff (r : List Byte) : validFrame r = true ↔
    2 ≤ r.length ∧ r.drop (r.length - 2) = crcTrailer (r.take (r.length - 2)) := by
  rw [validFrame, Bool.and_eq_true, decide_eq_true_iff, beq_iff_eq]

/-- Two bytes are the trailer of the empty body (41_codec R147). -/
theorem validFrame_pair_iff (l h : Byte) : validFrame [l, h] = true ↔ l = 0xFF ∧ h = 0xFF := by
  have seed : crc16 [] = (0xFF, 0xFF) := rfl
  have empty : validFrame [l, h] = true ↔ crc16 [] = (l, h) := validFrame_append_iff [] l h
  rw [empty, seed, Prod.mk.injEq, eq_comm, eq_comm (b := h)]

/-! ### The buffers loaded by hand -/

/-- A byte stored at a length register, and the register counted up. -/
theorem slice_write_add_one {m : Memory} {n : Half} (b : Byte) (hn : n.toNat < 65535) (hm : m.wf) :
    (m.write n.toNat b).slice (n + 1).toNat = m.slice n.toNat ++ [b] := by
  rw [toNat_add_one hn, slice_write_end hm]

theorem txPutBody_room {s : State} (h : s.txlen.toNat < Config.txMax) :
    txPutBody s = ([], { s with txbuf := s.txbuf.write s.txlen.toNat s.data, txlen := s.txlen + 1 }) := by
  rw [txPutBody, if_neg (not_le.2 h), appendTx, ofNat_toNat_succ]

theorem txPutBody_full {s : State} (h : Config.txMax ≤ s.txlen.toNat) : txPutBody s = ([.invalidArgument], s) :=
  if_pos h

theorem exec_txPut_room {s : State} (h : s.txlen.toNat < Config.txMax) : exec .txPut s = .next
    (ended 0x01 0 { s with txbuf := s.txbuf.write s.txlen.toNat s.data, txlen := s.txlen + 1 }) :=
  congrArg _ (runAtomic_ok (txPutBody_room (s := beginCommand s) h))

theorem exec_txPut_full {s : State} (h : Config.txMax ≤ s.txlen.toNat) : exec .txPut s = .next (ended 0x04 2 s) :=
  congrArg _ (runAtomic_argument (txPutBody_full (s := beginCommand s) h))

theorem rxPutBody_room {s : State} (h : s.rxlen.toNat < Config.rxMax) : rxPutBody s =
    ([], { s with rxbuf := s.rxbuf.write s.rxlen.toNat s.data, rxlen := s.rxlen + 1, paylen := 0 }) := by
  rw [rxPutBody, if_neg (not_le.2 h), appendRx, ofNat_toNat_succ]

theorem rxPutBody_full {s : State} (h : Config.rxMax ≤ s.rxlen.toNat) : rxPutBody s = ([.invalidArgument], s) :=
  if_pos h

theorem exec_rxPut_room {s : State} (h : s.rxlen.toNat < Config.rxMax) : exec .rxPut s = .next
    (ended 0x01 0 { s with rxbuf := s.rxbuf.write s.rxlen.toNat s.data, rxlen := s.rxlen + 1, paylen := 0 }) :=
  congrArg _ (runAtomic_ok (rxPutBody_room (s := beginCommand s) h))

theorem exec_rxPut_full {s : State} (h : Config.rxMax ≤ s.rxlen.toNat) : exec .rxPut s = .next (ended 0x04 2 s) :=
  congrArg _ (runAtomic_argument (rxPutBody_full (s := beginCommand s) h))

/-! ### The request builders -/

/-- The builders in terms of the operands as numbers, and on an operand out of range (41_codec R144 to R146). -/
theorem exec_bldRd_ok {s : State} (h : operandsInRange .rdregs s) :
    exec .bldRd s = .next (ended 0x01 0 (requestReady .rdregs s)) :=
  congrArg _ (runAtomic_ok (bldRdBody_ok (s := beginCommand s) h))

theorem exec_bldRd_bad {s : State} (h : ¬operandsInRange .rdregs s) : exec .bldRd s = .next (ended 0x04 2 s) :=
  congrArg _ (runAtomic_argument (bldRdBody_bad (s := beginCommand s) h))

theorem exec_bldWc_ok {s : State} (h : operandsInRange .wrcoil s) :
    exec .bldWc s = .next (ended 0x01 0 (requestReady .wrcoil s)) :=
  congrArg _ (runAtomic_ok (bldWcBody_ok (s := beginCommand s) h))

theorem exec_bldWc_bad {s : State} (h : ¬operandsInRange .wrcoil s) : exec .bldWc s = .next (ended 0x04 2 s) :=
  congrArg _ (runAtomic_argument (bldWcBody_bad (s := beginCommand s) h))

/-- The coil sentinel's byte chosen by the register itself (30_encoding R97). -/
theorem coilRequestBody_argCoil (dev reg : Nat) (v : BitVec 1) : coilRequestBody dev reg (v == 1) =
    [BitVec.ofNat 8 dev, 0x05, BitVec.ofNat 8 (reg / 256), BitVec.ofNat 8 (reg % 256),
      if v = 1 then 0xFF else 0x00, 0x00] := by
  simp only [coilRequestBody, beq_iff_eq]

/-! ### VALID -/

theorem checkedCrc_short {r : List Byte} (old : Byte × Byte) (h : r.length < 2) : checkedCrc old r = old :=
  if_pos h

theorem checkedCrc_append (old : Byte × Byte) (b : List Byte) (x y : Byte) : checkedCrc old (b ++ [x, y]) = crc16 b := by
  simp [checkedCrc]

/-- VALID's body on a valid response and on any other, in terms of the response alone (41_codec R148, R149, R152). -/
theorem validBody_ok {s : State} (h : validFrame (rxBytes s) = true) :
    validBody s = ([], { setCrc (checkedCrc (crcAcc s) (rxBytes s)) s with
      paylen := BitVec.ofNat 16 (payloadLength (rxBytes s).length) }) := by
  rw [validBody, checkTrailer_ok, if_pos h, checkTrailer_state, rxBytes_length]

theorem validBody_bad {s : State} (h : validFrame (rxBytes s) ≠ true) :
    validBody s = ([.checksumMismatch], { setCrc (checkedCrc (crcAcc s) (rxBytes s)) s with paylen := 0 }) := by
  rw [validBody, checkTrailer_ok, if_neg h, checkTrailer_state]

theorem exec_valid_ok {s : State} (h : validFrame (rxBytes s) = true) :
    exec .valid s = .next (ended 0x01 0 { setCrc (checkedCrc (crcAcc s) (rxBytes s)) s with
      paylen := BitVec.ofNat 16 (payloadLength (rxBytes s).length) }) :=
  congrArg _ (runAtomic_ok (validBody_ok (s := beginCommand s) h))

theorem exec_valid_bad {s : State} (h : validFrame (rxBytes s) ≠ true) :
    exec .valid s = .next (ended 0x20 5 { setCrc (checkedCrc (crcAcc s) (rxBytes s)) s with paylen := 0 }) :=
  congrArg _ (runAtomic_ended resultOf_checksum causeOf_checksum (validBody_bad (s := beginCommand s) h))

theorem ofNat_payloadLength (n : Nat) :
    BitVec.ofNat 16 (payloadLength n) = if 5 ≤ n then BitVec.ofNat 16 (n - 5) else 0 :=
  apply_ite ..

/-! ### ECHO -/

/-- Two slices are equal when they are equally long and agree at each index (41_codec R150). -/
theorem slice_eq_slice_iff {m m' : Memory} {n n' : Nat} :
    m.slice n = m'.slice n' ↔ n = n' ∧ ∀ i < n', m.read i = m'.read i := by
  constructor
  · intro h
    have hn : n = n' := by simpa using congrArg List.length h
    subst hn
    refine ⟨rfl, fun i hi => ?_⟩
    have byte := List.getElem_of_eq h (i := i) (by simpa using hi)
    rwa [Memory.getElem_slice, Memory.getElem_slice] at byte
  · rintro ⟨rfl, h⟩
    exact Memory.slice_congr h

theorem sameBytes_iff_read (s : State) : sameBytes s = true ↔
    s.rxlen = s.txlen ∧ ∀ i < s.txlen.toNat, s.rxbuf.read i = s.txbuf.read i := by
  rw [sameBytes_iff, rxBytes, txBytes, slice_eq_slice_iff, BitVec.toNat_inj]

theorem exec_echo_ok {s : State} (h : sameBytes s = true) : exec .echo s = .next (ended 0x01 0 s) := by
  have same : sameBytes (beginCommand s) = true := h
  exact congrArg _ (runAtomic_ok (if_pos same))

theorem exec_echo_bad {s : State} (h : sameBytes s ≠ true) : exec .echo s = .next (ended 0x40 6 s) := by
  have differ : sameBytes (beginCommand s) ≠ true := h
  exact congrArg _ (runAtomic_ended resultOf_echo causeOf_echo (if_neg differ))

end Sys2Proof.Machine

/-! ### The statements -/

namespace Sys2Proof.Proofs

open Sys2Proof Sys2Proof.Machine

/-- Settles O26: the predicate is its definition; a body and two bytes is its general form, two bytes the empty body. -/
theorem validExactlyWithTheRightTrailer : Obligations.ValidExactlyWithTheRightTrailer :=
  ⟨validFrame_iff, validFrame_append_iff, validFrame_pair_iff⟩

/-- Settles O30: below 8 the byte goes to the end of the request; at 8 the guard stops it. -/
theorem txPutAppendsData : Obligations.TxPutAppendsData := by
  refine fun s => ⟨fun room => ⟨_, exec_txPut_room room, rfl, ?_⟩, fun full => exec_txPut_full full.ge⟩
  exact slice_write_add_one s.data (by omega)

/-- Settles O31: below 1000 the byte goes to the end of the response; at 1000 the guard stops it. -/
theorem rxPutAppendsData : Obligations.RxPutAppendsData := by
  refine fun s => ⟨fun room => ⟨_, exec_rxPut_room room, rfl, ?_⟩, fun full => exec_rxPut_full full.ge⟩
  exact slice_write_add_one s.data (by omega)

/-- Settles O32: the slices BLD.RD takes are the operands' big-endian bytes, and the checksum follows them. -/
theorem bldRdBuildsTheRequest : Obligations.BldRdBuildsTheRequest := by
  rintro s _ rfl
  exact ⟨fun h => ⟨_, exec_bldRd_ok h, rfl, fun hw => txBytes_withRequest hw rfl⟩, exec_bldRd_bad⟩

/-- Settles O33: as for BLD.RD, the last field being the coil sentinel. -/
theorem bldWcBuildsTheRequest : Obligations.BldWcBuildsTheRequest := by
  rintro s _ rfl
  rw [← coilRequestBody_argCoil]
  exact ⟨fun h => ⟨_, exec_bldWc_ok h, rfl, fun hw => txBytes_withRequest hw rfl⟩, exec_bldWc_bad⟩

/-- Settles O34: the build raises InvalidArgument, so the exchange is not begun. -/
theorem outOfRangeExchangesDoNothing : Obligations.OutOfRangeExchangesDoNothing := by
  refine fun s => ⟨fun h => exec_exchange_bad (c := .rdregs) ?_, fun h => exec_exchange_bad (c := .wrcoil) ?_⟩
  · rintro ⟨hdev, hreg, hcnt⟩
    omega
  · rintro ⟨hdev, hreg⟩
    omega

/-- Settles O37: fewer than two bytes are never valid and leave the accumulators; a body and two bytes is valid exactly
when they are its checksum. -/
theorem validTestsTheTrailer : Obligations.ValidTestsTheTrailer := by
  rintro s r rfl
  refine ⟨fun short => ?_, fun b x y hr => ?_⟩
  · rw [exec_valid_bad (by simp [validFrame_short short]), checkedCrc_short _ short]
    rfl
  · have trailer : validFrame (rxBytes s) = true ↔ (crc16 b).1 = x ∧ (crc16 b).2 = y := by
      rw [hr, validFrame_append_iff, Prod.ext_iff]
    have crc : checkedCrc (crcAcc s) (rxBytes s) = crc16 b := by rw [hr, checkedCrc_append]
    split
    · rw [exec_valid_ok (trailer.2 ‹_›), crc, ofNat_payloadLength]
      rfl
    · rw [exec_valid_bad (mt trailer.1 ‹_›), crc]
      rfl

/-- Settles O38: the echo test is the comparison of length and bytes. -/
theorem echoComparesByteForByte : Obligations.EchoComparesByteForByte := by
  refine fun s => ⟨fun same => exec_echo_ok ?_, fun differ => exec_echo_bad ?_⟩
  · exact (sameBytes_iff_read s).2 same
  · exact mt (sameBytes_iff_read s).1 differ

/-- Settles O29: the clears' bodies raise nothing. -/
theorem clearsEmptyTheirBuffer : Obligations.ClearsEmptyTheirBuffer := fun s =>
  ⟨congrArg _ (finishCommand_ok { beginCommand s with txlen := 0, txidx := 0 }),
    congrArg _ (finishCommand_ok { beginCommand s with rxlen := 0, paylen := 0 })⟩

end Sys2Proof.Proofs
end

section
/-! PROOFS. The half-duplex transactor (42_transactor): its single steps (R172 to R179, R186), the three commands with an
exchange (R180 to R182, R184), and that every exchange ends within its bound and released (R171, R187). -/

namespace Sys2Proof.Machine

/-! ### Single steps -/

/-- With reset not asserted at all, a step of a running command is its sequencer step. -/
theorem step_sequencerStep {s : State} {c : ExchangeCmd} (hq : s.resetPin = []) (hb : s.busy = true)
    (hr : s.running = some c) : step s = .next (sequencerStep c s) := by
  have quiet : resetQuiet s := fun l hl => by simp [hq] at hl
  rw [step_busy (resetLevel_quiet quiet) hb hr, nextSample_quiet hq]

/-- RESULT and CAUSE of the length test (42_transactor R180, 60_exceptions R244). -/
theorem resultOf_length (n : Nat) :
    resultOf (if n < Config.minFrame then [.timeoutEmpty] else []) = if n < 4 then 0x10 else 0x01 := by
  rw [apply_ite resultOf, resultOf_timeout, resultOf_nil]
  rfl

theorem causeOf_length (n : Nat) : causeOf (if n < 4 then 0x10 else 0x01) = if n < 4 then 4 else 0 :=
  apply_ite ..

/-- The end of XCHG's wait: release, and the length test alone (42_transactor R177, R179, R180). -/
theorem endOfWait_xchg (s : State) :
    endOfWait .xchg s =
      { s with conn := false, phase := .idle, history := s.history ++ [.closed s.port]
               busy := false, running := none
               result := if s.rxlen.toNat < 4 then 0x10 else 0x01
               cause := if s.rxlen.toNat < 4 then 4 else 0 } :=
  finishCommand_of (resultOf_length _) (causeOf_length _) (releasePort s)

/-- Outside the receive phase a sequencer step takes no line event and stores nothing (42_transactor R186). -/
theorem sequencerStep_receiver_off (c : ExchangeCmd) {s : State} (hp : s.phase ≠ .rx) :
    (sequencerStep c s).rxbuf = s.rxbuf ∧ (sequencerStep c s).events = s.events ∧
      ((sequencerStep c s).rxlen = s.rxlen ∨ (sequencerStep c s).rxlen = 0) := by
  unfold sequencerStep
  split
  · rcases exchangeStart_cases s with ⟨o, k, -, e⟩ | ⟨o, k, e⟩ <;> rw [e] <;> exact ⟨rfl, rfl, .inr rfl⟩
  · split
    · rcases exchangeTransmit_cases s with ⟨o, k, e⟩ | ⟨o, k, e⟩ <;> rw [e] <;> exact ⟨rfl, rfl, .inl rfl⟩
    · exact ⟨rfl, rfl, .inl rfl⟩
  · exact absurd ‹_› hp

/-! ### The port is released -/

/-- An open port is seen in PHASE, and a command that has ended has left it (42_transactor R179). -/
def PortInPhase (s : State) : Prop := (s.phase = .idle → s.conn = false) ∧ (s.busy = false → s.phase = .idle)

theorem PortInPhase.atRest {s : State} (h : PortInPhase s) (hb : s.busy = false) : atRest s :=
  ⟨hb, h.1 (h.2 hb), h.2 hb⟩

theorem portInPhase_of_released {s : State} (hc : s.conn = false) (hp : s.phase = .idle) : PortInPhase s :=
  ⟨fun _ => hc, fun _ => hp⟩

/-- A step with the exchange under way, PHASE being TX or RX. -/
theorem portInPhase_of_underWay {s : State} (hb : s.busy = true) (hp : s.phase ≠ .idle) : PortInPhase s :=
  ⟨fun h => absurd h hp, fun h => by simp [hb] at h⟩

theorem portInPhase_endOfWait (c : ExchangeCmd) (s : State) : PortInPhase (endOfWait c s) := by
  obtain ⟨a, n, e, -⟩ := afterExchange_state c (releasePort s)
  rw [endOfWait, e]
  exact portInPhase_of_released rfl rfl

theorem portInPhase_sequencerStep (c : ExchangeCmd) {s : State} (hb : s.busy = true) (h : PortInPhase s) :
    PortInPhase (sequencerStep c s) := by
  cases hp : s.phase with
  | idle =>
    rw [sequencerStep_idle hp]
    rcases exchangeStart_cases s with ⟨o, k, -, e⟩ | ⟨o, k, e⟩ <;> rw [e]
    · exact portInPhase_of_underWay hb nofun
    · exact portInPhase_of_released (h.1 hp) hp
  | tx =>
    have under : s.phase ≠ .idle := by simp [hp]
    by_cases hi : s.txidx.toNat < s.txlen.toNat
    · rw [sequencerStep_transmit hp hi]
      rcases exchangeTransmit_cases s with ⟨o, k, e⟩ | ⟨o, k, e⟩ <;> rw [e]
      · exact portInPhase_of_underWay hb under
      · exact portInPhase_of_released rfl rfl
    · rw [sequencerStep_turnaround hp hi]
      exact portInPhase_of_underWay hb nofun
  | rx =>
    have under : s.phase ≠ .idle := by simp [hp]
    rw [sequencerStep_receive hp]
    rcases exchangeReceive_cases c s with ⟨o, k, b, -, e⟩ | ⟨o, k, e⟩ | ⟨o, k, -, e⟩ <;> rw [e]
    · exact portInPhase_of_underWay hb under
    · exact portInPhase_endOfWait c _
    · exact portInPhase_of_released rfl rfl

/-- A tick keeps the port in step with PHASE, whether reset is asserted or not (70_reset_and_hazards R281). -/
theorem portInPhase_sequencerTick {s : State} (hb : s.busy = true) (h : PortInPhase s) :
    PortInPhase (sequencerTick s) := by
  unfold sequencerTick
  split
  · exact portInPhase_of_released rfl rfl
  · split
    · exact portInPhase_sequencerStep _ (s := nextSample s) hb h
    · exact h

/-! ### The start of an exchange -/

section Begun
variable (c : ExchangeCmd) (s : State)

@[simp] theorem exchangeBegun_busy : (exchangeBegun c s).busy = true := by cases c <;> rfl
@[simp] theorem exchangeBegun_conn : (exchangeBegun c s).conn = s.conn := by cases c <;> rfl
@[simp] theorem exchangeBegun_phase : (exchangeBegun c s).phase = s.phase := by cases c <;> rfl
@[simp] theorem exchangeBegun_port : (exchangeBegun c s).port = s.port := by cases c <;> rfl
@[simp] theorem exchangeBegun_resetPin : (exchangeBegun c s).resetPin = s.resetPin := by cases c <;> rfl
@[simp] theorem exchangeBegun_txlen : (exchangeBegun c s).txlen = (requestReady c s).txlen := by cases c <;> rfl
@[simp] theorem requestReady_port : (requestReady c s).port = s.port := by cases c <;> rfl

theorem underWay_exchangeBegun : underWay (exchangeBegun c s) := ⟨exchangeBegun_busy c s, rfl⟩

theorem outcomePossible_exchangeBegun (o : ExchangeOutcome) :
    outcomePossible (exchangeBegun c s) o ↔ outcomePossible (requestReady c s) o := by
  cases o <;> simp [outcomePossible]

/-- The listed answers stand beside the command's start and do not touch it. -/
theorem exchangeBegun_withOutcome (o : ExchangeOutcome) (n : Nat) :
    exchangeBegun c (withOutcome o n s) = withOutcome o n (exchangeBegun c s) := by
  cases c <;> rfl

end Begun

/-- From rest, the ticks of the bound bring an exchange to its end, with the port released (42_transactor R187). -/
theorem atRest_exchange (c : ExchangeCmd) {s : State} (h : atRest s) :
    atRest (sequencerRun ((requestReady c s).txlen.toNat + 1003) (exchangeBegun c s)) := by
  obtain ⟨-, hc, hp⟩ := h
  have start : PortInPhase (exchangeBegun c s) := portInPhase_of_released (by simpa using hc) (by simpa using hp)
  have kept := sequencerRun_induction (fun _ => portInPhase_sequencerTick)
    ((requestReady c s).txlen.toNat + 1003) _ start
  exact kept.atRest (sequencerRun_ends _ _ (.inr ⟨underWay_exchangeBegun c s, by simp [ticksLeft, hp]⟩))

/-! ### A command with the environment's answers listed -/

/-- A command at rest, on operands in range and with a port that exists, ends its exchange with the outcome listed. -/
theorem exec_withOutcome (c : ExchangeCmd) {s : State} {o : ExchangeOutcome} (hs : atRest s)
    (hops : operandsInRange c s) (ho : outcomePossible (requestReady c s) o) (hport : s.port.toNat < 2) :
    ∃ w, exec (exchangeInstr c) (withOutcome o (requestReady c s).txlen.toNat s) =
      .next (exchangeEnd c (exchangeBegun c s) o w) := by
  obtain ⟨-, hc, hp⟩ := hs
  have hops' : operandsInRange c (withOutcome o (requestReady c s).txlen.toNat s) := by cases c <;> exact hops
  have length : (requestReady c (withOutcome o (requestReady c s).txlen.toNat s)).txlen =
      (requestReady c s).txlen := by cases c <;> rfl
  obtain ⟨w, e⟩ := sequencerRun_listed c (exchangeBegun c s) o (by simp) rfl (by simpa using hc) (by simpa using hp)
    ((outcomePossible_exchangeBegun c s o).2 ho) (by simpa using hport)
  rw [exchangeBound, exchangeBegun_txlen] at e
  exact ⟨w, by rw [exec_exchange hops', exchangeBegun_withOutcome, length]; exact congrArg _ e⟩

/-- The bytes of the response are what a command leaves in RXBUF (42_transactor R184). -/
theorem rxBytes_commandEnd (c : ExchangeCmd) {s : State} {r : List Byte} (hw : s.rxbuf.wf) (hl : r.length ≤ 1000) :
    rxBytes (commandEnd c s (.response r)) = r := by
  cases c <;> exact rxBytes_writeAll (s := s) hw (by omega)

/-- A command whose environment answers with the bytes `r`. -/
theorem exec_response (c : ExchangeCmd) {s : State} {r : List Byte} (hs : atRest s) (hw : s.rxbuf.wf)
    (hops : operandsInRange c s) (hport : s.port.toNat < 2) (hl : r.length ≤ 1000) :
    ∃ t, exec (exchangeInstr c) (withOutcome (.response r) (requestReady c s).txlen.toNat s) = .next t ∧
      rxBytes t = r ∧ sameWorld s t = sameWorld s (commandEnd c (requestReady c s) (.response r)) := by
  have ho : outcomePossible (requestReady c s) (.response r) := ⟨by simpa using hport, hl⟩
  obtain ⟨w, e⟩ := exec_withOutcome c hs hops ho hport
  have agree := sameWorld_exchangeEnd c s s w _ hw ho
  have bytes := rxBytes_commandEnd c (s := requestReady c s) (by cases c <;> exact hw) hl
  exact ⟨_, e, (congrArg rxBytes agree).trans bytes, agree⟩

/-- XCHG's end needs no order in RXBUF: it looks at the length of the response only (42_transactor R180). -/
theorem sameWorld_exchangeEnd_xchg (s v w : State) {r : List Byte} (hl : r.length ≤ 1000) :
    sameWorld v (exchangeEnd .xchg (exchangeBegun .xchg s) (.response r) w) =
      sameWorld v (commandEnd .xchg s (.response r)) := by
  have hn : (BitVec.ofNat 16 r.length).toNat = r.length := toNat_ofNat_half (by omega)
  have kinds : lengthKinds (sameWorld w (exchangeResult (exchangeBegun .xchg s) (.response r))) =
      if r.length < Config.minFrame then [.timeoutEmpty] else [] :=
    congrArg (fun n => if n < Config.minFrame then [ErrorKind.timeoutEmpty] else []) hn
  show sameWorld v (finishCommand (lengthKinds (sameWorld w (exchangeResult (exchangeBegun .xchg s) (.response r))))
    (sameWorld w (exchangeResult (exchangeBegun .xchg s) (.response r)))) = _
  rw [kinds]
  rfl

/-! ### OK -/

/-- OK is reported exactly when nothing was raised (60_exceptions R248). -/
theorem resultOf_ok_iff (ks : List ErrorKind) : (resultOf ks).getLsbD 0 = true ↔ ks = [] := by
  by_cases h : ks = []
  · subst h
    decide
  · refine iff_of_false (fun hbit => ?_) h
    obtain ⟨k, -, e⟩ := (getLsbD_resultOf h 0).1 hbit
    have := kindCode_bounds k
    omega

theorem readKinds_eq_nil_iff (r : List Byte) : readKinds r = [] ↔ 4 ≤ r.length ∧ validFrame r = true := by
  simp [readKinds]

theorem writeKinds_eq_nil_iff (request r : List Byte) : writeKinds request r = [] ↔ readKinds r = [] ∧ r = request := by
  simp [writeKinds]

/-- The validity predicate by the last two bytes (41_codec R147). -/
theorem validFrame_iff_getD {r : List Byte} (h : 2 ≤ r.length) : validFrame r = true ↔
    crc16 (r.take (r.length - 2)) = (r.getD (r.length - 2) 0, r.getD (r.length - 1) 0) := by
  have last : r.drop (r.length - 2) = [r.getD (r.length - 2) 0, r.getD (r.length - 1) 0] := by
    rw [List.drop_eq_getElem_cons (by omega), List.drop_eq_getElem_cons (by omega), List.drop_of_length_le (by omega),
      List.getD_eq_getElem _ _ (by omega), List.getD_eq_getElem _ _ (by omega)]
    simp only [show r.length - 2 + 1 = r.length - 1 by omega]
  rw [← validFrame_append_iff, ← last, List.take_append_drop]

theorem readKinds_sealed {body : List Byte} (hl : 2 ≤ body.length) : readKinds (sealed body) = [] := by
  refine (readKinds_eq_nil_iff _).2 ⟨?_, (validFrame_append_iff body _ _).2 rfl⟩
  simp only [sealed, List.length_append, List.length_cons, List.length_nil]
  omega

end Sys2Proof.Machine

/-! ### The statements -/

namespace Sys2Proof.Proofs

open Sys2Proof Sys2Proof.Machine

/-- Settles O45: PHASE is IDLE or TX, and neither step asks for a line event. -/
theorem receiverIsOffOutsideRx : Obligations.ReceiverIsOffOutsideRx := by
  intro s t hl hb hp h
  rcases step_cases h with ⟨hl', -⟩ | ⟨-, -, c, -, rfl⟩ | ⟨-, hb', -⟩ | ⟨-, hb', -⟩
  · simp [hl] at hl'
  · exact sequencerStep_receiver_off c (s := nextSample s) hp
  · simp [hb] at hb'
  · simp [hb] at hb'

/-- Settles O46: the listed answers bring the response about, and XCHG tests its length. -/
theorem xchgReturnsTheResponse : Obligations.XchgReturnsTheResponse := by
  intro s r hs hport hl
  obtain ⟨w, e⟩ := exec_withOutcome .xchg (o := .response r) hs trivial ⟨hport, hl⟩ hport
  have agree := sameWorld_exchangeEnd_xchg s s w hl
  refine ⟨_, e, fun hw => (congrArg rxBytes agree).trans (rxBytes_commandEnd .xchg hw hl), agree.trans ?_⟩
  rw [← resultOf_length, ← causeOf_length, ← resultOf_length]
  rfl

/-- Settles O47: the request is 8 bytes long, and the exchange ends as `commandEnd` says. -/
theorem rdregsChecksTheResponse : Obligations.RdregsChecksTheResponse :=
  fun _ _ hs hw hops hport hl => exec_response .rdregs hs hw hops hport hl

/-- Settles O48, as for RDREGS. -/
theorem wrcoilChecksTheResponse : Obligations.WrcoilChecksTheResponse :=
  fun _ _ hs hw hops hport hl => exec_response .wrcoil hs hw hops hport hl

/-- Settles O49: no kind is raised exactly on four bytes or more that are valid, and with a kind there is no payload
window. -/
theorem rdregsOkExactlyOnAValidResponse : Obligations.RdregsOkExactlyOnAValidResponse := by
  intro s r hs hw hops hport hl
  obtain ⟨t, e, -, agree⟩ := exec_response .rdregs hs hw hops hport hl
  have result : t.result = resultOf (readKinds r) := congrArg State.result agree
  have paylen : t.paylen = if readKinds r = [] then BitVec.ofNat 16 (payloadLength r.length) else 0 :=
    congrArg State.paylen agree
  refine ⟨t, e, ?_, fun hok => ?_⟩
  · rw [result, resultOf_ok_iff, readKinds_eq_nil_iff]
    exact and_congr_right fun h4 => validFrame_iff_getD (by omega)
  · have raised : readKinds r ≠ [] := by rw [Ne, ← resultOf_ok_iff, ← result, hok]; exact Bool.false_ne_true
    rw [paylen, if_neg raised]

/-- Settles O50: the request itself is long enough and valid, so only the echo test decides. -/
theorem wrcoilOkExactlyOnTheEcho : Obligations.WrcoilOkExactlyOnTheEcho := by
  intro s r hs hw hwt hops hport hl
  obtain ⟨t, e, -, agree⟩ := exec_response .wrcoil hs hw hops hport hl
  have request : txBytes (requestReady .wrcoil s) =
      sealed (coilRequestBody s.argDev.toNat s.argReg.toNat (s.argCoil == 1)) := txBytes_withRequest hwt rfl
  have result : t.result = resultOf (writeKinds (txBytes (requestReady .wrcoil s)) r) := congrArg State.result agree
  refine ⟨t, e, ?_⟩
  rw [result, resultOf_ok_iff, writeKinds_eq_nil_iff, request]
  refine and_iff_right_of_imp ?_
  rintro rfl
  exact readKinds_sealed (by simp [coilRequestBody])

/-- Settles O52: the start step fails without an answer being taken, and the command ends there. -/
theorem missingPortFailsUnasked : Obligations.MissingPortFailsUnasked := by
  intro c s hq hs hops hport
  obtain ⟨-, -, hp⟩ := hs
  rw [exec_exchange hops, sequencerRun_busy (by simp), sequencerTick_plain (by simpa using hq) rfl,
    sequencerStep_idle (by simpa using hp), exchangeStart_noPort (by simpa using hport), sequencerRun_done rfl,
    finishCommand_transport]
  cases c <;> rfl

/-- Settles O53: the exchange from the command's start is one of the four outcomes, and the command reports it. -/
theorem everyExchangeIsOneOfFourOutcomes : Obligations.EveryExchangeIsOneOfFourOutcomes := by
  intro c s hs hw hops hq
  obtain ⟨-, hc, hp⟩ := hs
  have quiet : resetQuiet (exchangeBegun c s) := by rwa [resetQuiet, exchangeBegun_resetPin]
  obtain ⟨o, w, ho, e⟩ := sequencerRun_outcome c (exchangeBegun c s) _ (by simp) rfl (by simpa using hc)
    (by simpa using hp) quiet (le_refl _)
  rw [outcomePossible_exchangeBegun] at ho
  rw [exchangeBegun_txlen] at e
  exact ⟨o, _, ho, by rw [exec_exchange hops, e], sameWorld_exchangeEnd c s s w o hw ho⟩

/-- Settles O54: out of range no exchange begins; in range it ends with the port released. -/
theorem everyExchangeEndsReleased : Obligations.EveryExchangeEndsReleased := by
  intro c s hs
  by_cases h : operandsInRange c s
  · exact ⟨_, exec_exchange h, atRest_exchange c hs⟩
  · obtain ⟨-, hc, hp⟩ := hs
    exact ⟨_, exec_exchange_bad h, rfl, hc, hp⟩

/-- Settles O55: each tick of the command's run is a step of the machine. -/
theorem singleStepsReachTheCommandsEnd : Obligations.SingleStepsReachTheCommandsEnd := by
  intro c s t _ hops he
  rw [exec_exchange hops] at he
  cases he
  exact coreRun_sequencerRun _ _ (.inr (underWay_exchangeBegun c s))

/-- Settles O40: the environment's answer decides, unless there is no port to ask about. -/
theorem startStepOpensThePort : Obligations.StartStepOpensThePort := by
  intro s c hq hb hr hp
  rw [step_sequencerStep hq hb hr, sequencerStep_idle hp]
  refine ⟨fun rest hport ho => ?_, fun rest hport ho => ?_, fun hport => ?_⟩
  · rw [exchangeStart_ok hport ho]
  · rw [exchangeStart_fail hport ho, finishCommand_transport]
  · rw [exchangeStart_noPort hport, finishCommand_transport]

/-- Settles O41: TXIDX is below TXLEN, so the step transmits. -/
theorem transmitStepSendsTheNextByte : Obligations.TransmitStepSendsTheNextByte := by
  intro s c rest hq hb hr hp hi
  rw [step_sequencerStep hq hb hr, sequencerStep_transmit hp hi]
  refine ⟨fun ha => ?_, fun ha => ?_⟩
  · rw [exchangeTransmit_ok ha, ofNat_toNat_succ]
  · rw [exchangeTransmit_fail ha, finishCommand_transport]
    rfl

/-- Settles O42: with TXIDX = TXLEN there is no byte left to send. -/
theorem turnaroundStartsListening : Obligations.TurnaroundStartsListening := by
  intro s c hq hb hr hp hi
  rw [step_sequencerStep hq hb hr, sequencerStep_turnaround hp (by simp [hi])]
  rfl

/-- Settles O43: below the bound the step asks for a line event. -/
theorem receiveStepStoresTheByte : Obligations.ReceiveStepStoresTheByte := by
  intro s c rest hq hb hr hp hl
  rw [step_sequencerStep hq hb hr, sequencerStep_receive hp]
  refine ⟨fun b ha => ?_, fun ha => ?_⟩
  · rw [exchangeReceive_byte hl ha, appendRx, ofNat_toNat_succ]
  · rw [exchangeReceive_fault hl ha, finishCommand_transport]
    rfl

/-- Settles O44: at the bound the wait is over unasked; below it the timeout ends it. -/
theorem waitEndsAtBoundOrTimeout : Obligations.WaitEndsAtBoundOrTimeout := by
  intro s hq hb hr hp
  rw [step_sequencerStep hq hb hr, sequencerStep_receive hp]
  refine ⟨fun full => ?_, fun rest hl ha => ?_⟩
  · rw [exchangeReceive_full full.ge, endOfWait_xchg, full]
    rfl
  · rw [exchangeReceive_timeout hl ha, endOfWait_xchg]

end Sys2Proof.Proofs
end

section
/-! PROOFS. The host reference (48_host_reference): the temperature decoder's threshold (R213), and the pump's two
commands, the second issued whatever became of the first (R221). -/

namespace Sys2Proof.Machine

/-! ### Sign recovery of a temperature -/

theorem temperatureHundredths_of_le {raw : Nat} (h : raw ≤ 8000) : temperatureHundredths raw = raw :=
  if_neg h.not_gt

theorem temperatureHundredths_of_lt {raw : Nat} (h : 8000 < raw) : temperatureHundredths raw = (raw : Int) - 65536 :=
  if_pos h

theorem decodeReading_temperature (b0 b1 : Byte) : decodeReading [b0, b1] .temperature =
    some (.temperature (temperatureHundredths (b0.toNat * 256 + b1.toNat))) := rfl

/-! ### One command after another -/

/-- The host may issue a command, and no reset will cut it short (30_encoding R107, R108). -/
structure ReadyForCommand (s : State) : Prop where
  inv : StateInv s
  idle : s.busy = false
  quiet : resetQuiet s

theorem ReadyForCommand.released {s : State} (h : ReadyForCommand s) : Released s :=
  h.inv.released (h.inv.idleReleased h.idle)

theorem ReadyForCommand.atRest {s : State} (h : ReadyForCommand s) : atRest s :=
  ⟨h.idle, h.released.conn, h.released.phase⟩

/-- An exchange command adds no asserted level to the coming sampling points of the reset input. -/
theorem resetQuiet_exec_exchange (c : ExchangeCmd) {s t : State} (hq : resetQuiet s)
    (he : exec (exchangeInstr c) s = .next t) : resetQuiet t := by
  by_cases h : operandsInRange c s
  · rw [exec_exchange h] at he
    cases he
    have start : operandsHeld (operandRegisters (exchangeBegun c s)) (exchangeBegun c s) :=
      ⟨by rwa [resetQuiet, exchangeBegun_resetPin], rfl⟩
    exact (sequencerRun_induction (P := operandsHeld _) (fun _ _ => operandsHeld_sequencerTick) _ _ start).1
  · rw [exec_exchange_bad h] at he
    cases he
    exact hq

/-- After an exchange command, whatever became of it, the host may issue the next one. -/
theorem ReadyForCommand.exec_exchange (c : ExchangeCmd) {s t : State} (h : ReadyForCommand s)
    (he : exec (exchangeInstr c) s = .next t) : ReadyForCommand t where
  inv := stateInv_exec_exchange c h.released he
  idle := by
    obtain ⟨t', he', hb, -⟩ := Proofs.everyExchangeEndsReleased c s h.atRest
    cases he.symm.trans he'
    exact hb
  quiet := resetQuiet_exec_exchange c h.quiet he

theorem sameWorld_sameWorld (w u t : State) : sameWorld w (sameWorld u t) = sameWorld w t := rfl

/-- Agreement of two states in everything but the world does not depend on the world put in its place. -/
theorem sameWorld_congr {u t t' : State} (h : sameWorld u t = sameWorld u t') (w : State) :
    sameWorld w t = sameWorld w t' := by
  rw [← sameWorld_sameWorld w u t, h, sameWorld_sameWorld]

/-- The request is no part of the world. -/
theorem txBytes_sameWorld (w t : State) : txBytes (sameWorld w t) = txBytes t := rfl

/-- The end of a command leaves the request that was sent in TXBUF, whatever the outcome. -/
theorem txBytes_commandEnd (c : ExchangeCmd) (s : State) (o : ExchangeOutcome) :
    txBytes (commandEnd c s o) = txBytes s := by
  cases o with
  | response r => cases c <;> rfl
  | openFail => rfl
  | txFail k => rfl
  | rxFault r => rfl

/-! ### The pump's commands -/

/-- `s` with the registers written that the pump's command of coil value `v` needs (30_encoding R105). -/
def withPumpOperands (h : HostParams) (v : BitVec 1) (s : State) : State :=
  { s with port := h.pumpPort, argDev := h.pumpDev, argReg := h.pumpCoil, argCoil := v }

/-- The pump's command of coil value `v` (48_host_reference R221). -/
def pumpCommand (h : HostParams) (v : BitVec 1) (s : State) : State :=
  wrcoilStatement h.pumpDev h.pumpCoil v h.pumpPort s

theorem exec_wrcoil_withPumpOperands (h : HostParams) (v : BitVec 1) (s : State) :
    exec .wrcoil (withPumpOperands h v s) = .next (pumpCommand h v s) := rfl

/-- The facade's state is that of the off command run from the state the on command left. -/
theorem actuatePump_state (h : HostParams) (s : State) :
    (actuatePump h s).2 = pumpCommand h 0 (pumpCommand h 1 s) := rfl

theorem actuatePump_value (h : HostParams) (s : State) :
    (actuatePump h s).1 =
      Config.pumpOutcome (resultOk (pumpCommand h 1 s)) (resultOk (actuatePump h s).2) := rfl

theorem ReadyForCommand.withPumpOperands {s : State} (hs : ReadyForCommand s) (h : HostParams) (v : BitVec 1) :
    ReadyForCommand (withPumpOperands h v s) where
  inv := { hs.inv with }
  idle := hs.idle
  quiet := hs.quiet

theorem ReadyForCommand.pumpCommand {s : State} (hs : ReadyForCommand s) (h : HostParams) (v : BitVec 1) :
    ReadyForCommand (pumpCommand h v s) :=
  (hs.withPumpOperands h v).exec_exchange .wrcoil (exec_wrcoil_withPumpOperands h v s)

/-- A command of the pump with its operands in range has one of the four outcomes (42_transactor R184), in whatever
world `w` the two states are compared. -/
theorem pumpCommand_outcome {h : HostParams} {s : State} (v : BitVec 1) (hs : ReadyForCommand s)
    (hdev : h.pumpDev.toNat ≤ 255) (hcoil : h.pumpCoil.toNat ≤ 65535) :
    ∃ o, outcomePossible (requestReady .wrcoil (withPumpOperands h v s)) o ∧ ∀ w,
      sameWorld w (pumpCommand h v s) =
        sameWorld w (commandEnd .wrcoil (requestReady .wrcoil (withPumpOperands h v s)) o) := by
  have issued := hs.withPumpOperands h v
  obtain ⟨o, t, possible, he, agree⟩ :=
    Proofs.everyExchangeIsOneOfFourOutcomes .wrcoil _ issued.atRest issued.inv.rxWf ⟨hdev, hcoil⟩ issued.quiet
  cases (exec_wrcoil_withPumpOperands h v s).symm.trans he
  exact ⟨o, possible, sameWorld_congr agree⟩

/-- The last request is the frame of the pump's command, whatever its outcome. -/
theorem txBytes_pumpCommand {h : HostParams} {s : State} (v : BitVec 1) (hs : ReadyForCommand s)
    (hdev : h.pumpDev.toNat ≤ 255) (hcoil : h.pumpCoil.toNat ≤ 65535) :
    txBytes (pumpCommand h v s) = sealed (coilRequestBody h.pumpDev.toNat h.pumpCoil.toNat (v == 1)) := by
  obtain ⟨o, -, agree⟩ := pumpCommand_outcome v hs hdev hcoil
  calc txBytes (pumpCommand h v s)
      = txBytes (commandEnd .wrcoil (requestReady .wrcoil (withPumpOperands h v s)) o) := by
        rw [← txBytes_sameWorld s, agree, txBytes_sameWorld]
    _ = txBytes (requestReady .wrcoil (withPumpOperands h v s)) := txBytes_commandEnd ..
    _ = sealed (coilRequestBody h.pumpDev.toNat h.pumpCoil.toNat (v == 1)) :=
      txBytes_withRequest (hs.withPumpOperands h v).inv.txWf rfl

end Sys2Proof.Machine

/-! ### The statements -/

namespace Sys2Proof.Proofs

open Sys2Proof Sys2Proof.Machine

/-- Settles O60: the on command, whatever its outcome, leaves the block ready for the off command. -/
theorem pumpOffIsAttemptedAfterEveryOn : Obligations.PumpOffIsAttemptedAfterEveryOn := by
  intro h s inv idle quiet hdev hcoil
  have ready : ReadyForCommand s := ⟨inv, idle, quiet⟩
  have between : ReadyForCommand (pumpCommand h 1 s) := ready.pumpCommand h 1
  obtain ⟨on, onPossible, onEnd⟩ := pumpCommand_outcome 1 ready hdev hcoil
  obtain ⟨off, offPossible, offEnd⟩ := pumpCommand_outcome 0 between hdev hcoil
  have offFrame := txBytes_pumpCommand 0 between hdev hcoil
  rw [← actuatePump_state] at offEnd offFrame
  exact ⟨pumpCommand h 1 s, on, off, onPossible, onEnd s, offPossible, offEnd s, offFrame, actuatePump_value h s⟩

/-- Settles O59: the comparison with 8000 is strict. -/
theorem temperatureSignRecovery : Obligations.TemperatureSignRecovery := by
  intro b0 b1
  rw [decodeReading_temperature]
  refine ⟨fun low => ?_, fun high => ?_⟩
  · rw [temperatureHundredths_of_le low]
    push_cast
    rfl
  · rw [temperatureHundredths_of_lt high]
    push_cast
    rfl

end Sys2Proof.Proofs
end

section
/-! PROOFS. The error kinds (60_exceptions): RESULT and CAUSE as the kinds raised determine them (R248), and a command
that a fault of the line ends (R243, R249). -/

namespace Sys2Proof.Machine

/-! ### RESULT and CAUSE -/

/-- A kind's code tells it from the others (60_exceptions R241 to R246). -/
theorem kindCode_injective : Function.Injective kindCode := by
  intro k j h
  cases k <;> cases j <;> cases h <;> rfl

/-- CAUSE numbers an error bit that is set, and no set error bit has a lower number (10_state R35). -/
theorem causeOf_lowest {r : Byte} {n : Nat} (lo : 1 ≤ n) (hi : n ≤ 6) (set : r.getLsbD n = true) :
    r.getLsbD (causeOf r).toNat = true ∧ (causeOf r).toNat ≤ n := by
  have past {m : Nat} (clear : ¬r.getLsbD m = true) (le : m ≤ n) : m + 1 ≤ n :=
    Nat.lt_of_le_of_ne le fun e => clear (e ▸ set)
  unfold causeOf
  iterate 6
    split
    case isTrue bit => exact ⟨bit, lo⟩
    rename_i clear
    replace lo := past clear lo
  exact absurd hi (Nat.not_le.2 lo)

/-- A kind's bit of RESULT is set exactly when the kind was raised. -/
theorem getLsbD_resultOf_kindCode (ks : List ErrorKind) (k : ErrorKind) :
    (resultOf ks).getLsbD (kindCode k) = true ↔ k ∈ ks := by
  by_cases empty : ks = []
  · subst empty
    cases k <;> decide
  · rw [getLsbD_resultOf empty]
    refine ⟨?_, fun raised => ⟨k, raised, rfl⟩⟩
    rintro ⟨k', raised, e⟩
    exact kindCode_injective e ▸ raised

/-- No raised kind has a code below CAUSE. -/
theorem causeOf_resultOf_le {ks : List ErrorKind} {j : ErrorKind} (raised : j ∈ ks) :
    (causeOf (resultOf ks)).toNat ≤ kindCode j := by
  obtain ⟨lo, hi⟩ := kindCode_bounds j
  exact (causeOf_lowest lo hi ((getLsbD_resultOf_kindCode ks j).2 raised)).2

/-- CAUSE is the code of a raised kind, when there is one. -/
theorem exists_mem_kindCode_eq_causeOf {ks : List ErrorKind} (nonempty : ks ≠ []) :
    ∃ k ∈ ks, kindCode k = (causeOf (resultOf ks)).toNat := by
  obtain ⟨j, raised⟩ := List.exists_mem_of_ne_nil ks nonempty
  obtain ⟨lo, hi⟩ := kindCode_bounds j
  have set := (causeOf_lowest lo hi ((getLsbD_resultOf_kindCode ks j).2 raised)).1
  exact (getLsbD_resultOf nonempty _).1 set

/-! ### A fault of the line -/

/-- An exchange that did not end in a response leaves no received byte and no payload window, and the port as it was
before it (42_transactor R184). -/
theorem exchangeResult_fault (s : State) {o : ExchangeOutcome} (fault : ∀ r, o ≠ .response r) :
    (exchangeResult s o).rxlen = 0 ∧ (exchangeResult s o).paylen = 0 ∧ (exchangeResult s o).conn = s.conn ∧
      (exchangeResult s o).phase = s.phase := by
  cases o with
  | openFail => exact ⟨rfl, rfl, rfl, rfl⟩
  | txFail k => exact ⟨rfl, rfl, rfl, rfl⟩
  | rxFault r => exact ⟨rfl, rfl, rfl, rfl⟩
  | response r => exact absurd rfl (fault r)

/-- The end of an exchange that did not end in a response: TransportFault alone, with no test of what was received
(60_exceptions R243, R249). -/
theorem sameWorld_exchangeEnd_fault (c : ExchangeCmd) (s v w : State) {o : ExchangeOutcome}
    (fault : ∀ r, o ≠ .response r) :
    sameWorld v (exchangeEnd c (exchangeBegun c s) o w) =
      sameWorld v (ended 0x08 3 (exchangeResult (requestReady c s) o)) := by
  rw [requestReady_beginCommand, ← causeOf_transport, ← resultOf_transport]
  cases o with
  | openFail => rfl
  | txFail k => rfl
  | rxFault r => rfl
  | response r => exact absurd rfl (fault r)

/-- The only outcome without a port is that it did not open (42_transactor R172, R184). -/
theorem outcome_of_noPort {s : State} {o : ExchangeOutcome} (possible : outcomePossible s o) (hport : 2 ≤ s.port.toNat) :
    o = .openFail := by
  cases o with
  | openFail => rfl
  | txFail k => exact absurd possible.1 (Nat.not_lt.2 hport)
  | rxFault r => exact absurd possible.1 (Nat.not_lt.2 hport)
  | response r => exact absurd possible.1 (Nat.not_lt.2 hport)

/-- A command whose environment brings about a fault of the line, with a port that exists or without one. -/
theorem exec_fault (c : ExchangeCmd) {s : State} {o : ExchangeOutcome} (hs : atRest s) (hops : operandsInRange c s)
    (ho : outcomePossible (requestReady c s) o) (fault : ∀ r, o ≠ .response r) :
    ∃ t, exec (exchangeInstr c) (withOutcome o (requestReady c s).txlen.toNat s) = .next t ∧
      sameWorld s t = sameWorld s (ended 0x08 3 (exchangeResult (requestReady c s) o)) := by
  by_cases hport : s.port.toNat < 2
  · obtain ⟨w, e⟩ := exec_withOutcome c hs hops ho hport
    exact ⟨_, e, sameWorld_exchangeEnd_fault c s s w fault⟩
  · have noPort : 2 ≤ s.port.toNat := Nat.not_lt.1 hport
    obtain rfl := outcome_of_noPort ho (by simpa using noPort)
    have hops' : operandsInRange c (withOutcome .openFail (requestReady c s).txlen.toNat s) := by
      cases c <;> exact hops
    exact ⟨_, Proofs.missingPortFailsUnasked c _ rfl hs hops' noPort, by cases c <;> rfl⟩

end Sys2Proof.Machine

/-! ### The statements -/

namespace Sys2Proof.Proofs

open Sys2Proof Sys2Proof.Machine

/-- Settles O51: the exchange ends as its outcome's row of R184 says, and on each fault's row nothing was received and
the port is as it was at rest. -/
theorem transportFaultReleasesThePort : Obligations.TransportFaultReleasesThePort := by
  intro c s o hs hops ho fault
  obtain ⟨t, e, agree⟩ := exec_fault c hs hops ho fault
  obtain ⟨rxlen, paylen, conn, phase⟩ := exchangeResult_fault (requestReady c s) fault
  obtain ⟨-, hc, hp⟩ := hs
  have ready : (requestReady c s).conn = false ∧ (requestReady c s).phase = .idle := by cases c <;> exact ⟨hc, hp⟩
  exact ⟨t, e, agree, (congrArg State.rxlen agree).trans rxlen, (congrArg State.paylen agree).trans paylen,
    congrArg State.busy agree, (congrArg State.conn agree).trans (conn.trans ready.1),
    (congrArg State.phase agree).trans (phase.trans ready.2)⟩

/-- Settles O16: a kind's bit is set exactly by that kind, its code being its own, and CAUSE numbers the lowest bit set. -/
theorem resultAndCauseReportTheKindsRaised : Obligations.ResultAndCauseReportTheKindsRaised := by
  intro ks
  refine ⟨fun k => ?_, ?_, ?_, ?_, fun nonempty => ?_⟩
  · rw [Bool.eq_iff_iff, decide_eq_true_iff, getLsbD_resultOf_kindCode]
  · rw [Bool.eq_iff_iff, decide_eq_true_iff, resultOf_ok_iff]
  · exact ((resultLegal_iff _).1 (resultLegal_resultOf ks)).1
  · rintro rfl
    rw [resultOf_nil, causeOf_ok]
  · obtain ⟨k, raised, code⟩ := exists_mem_kindCode_eq_causeOf nonempty
    exact ⟨k, raised, code.symm, fun j hj => code ▸ causeOf_resultOf_le hj⟩

end Sys2Proof.Proofs
end

section
/-! PROOFS. Reset (70_reset_and_hazards): what asserting the reset input does to the block (R280), to an open port (R281)
and to the world around (log entry 9). -/

namespace Sys2Proof.Machine

/-! ### What reset does -/

/-- Of the block's own state nothing survives reset (70_reset_and_hazards R280). -/
@[simp] theorem blockOnly_applyReset (s : State) : blockOnly (applyReset s) = blockOnly State.reset := rfl

@[simp] theorem applyReset_hostQueue (s : State) : (applyReset s).hostQueue = s.hostQueue := rfl

/-- A port that is open at reset is released, and only then is there an event (70_reset_and_hazards R281). -/
@[simp] theorem applyReset_history (s : State) :
    (applyReset s).history = if s.conn then s.history ++ [.closed s.port] else s.history := rfl

end Sys2Proof.Machine

/-! ### The statement -/

namespace Sys2Proof.Proofs

open Sys2Proof Sys2Proof.Machine

/-- Settles O15: the step is `applyReset` past the sampling point, which changes nothing that reset looks at. -/
theorem resetReachesTheResetState : Obligations.ResetReachesTheResetState := by
  intro s asserted
  refine ⟨applyReset (nextSample s), step_reset asserted, blockOnly_applyReset _, ?_, ?_⟩
  · rw [applyReset_hostQueue, nextSample_hostQueue]
  · rw [applyReset_history, nextSample_conn, nextSample_history, nextSample_port]

end Sys2Proof.Proofs
end

section
/-! PROOFS. The request frame as the host's next move (30_encoding section 5, log entry 10). -/

namespace Sys2Proof.Machine

/-- A request of eight bytes that decode runs what they decode to. -/
theorem hostRequest_of_decode {bytes : List Byte} {i : Instr} (hl : bytes.length = 8) (hd : decode bytes = .ok i)
    (s : State) : hostRequest bytes s = exec i s := by
  match bytes, hl with
  | [b0, b1, b2, b3, b4, b5, b6, b7], _ => rw [hostRequest, hd]

end Sys2Proof.Machine

/-! ### The statement -/

namespace Sys2Proof.Proofs

open Sys2Proof Sys2Proof.Machine

/-- Settles O6: the step takes the request from the queue, and the request runs the row that its bytes decode to. -/
theorem stepBuildsTheFrameRequested : Obligations.StepBuildsTheFrameRequested := by
  intro s bytes q i hl hb hq h8 hd
  exact (step_move hl hb hq).trans (hostRequest_of_decode h8 hd _)

end Sys2Proof.Proofs
end
